-- ==== Sys2Proof/Word.lean ====
section
/-! DEFINITION. The word types of the block: the widths of 00_scope.md R5 and the operand types of 30_encoding.md R64. -/

namespace Sys2Proof

/-- One byte of an operation word or of a response (30_encoding.md R61, R68). -/
abbrev Byte := BitVec 8

/-- A 16-bit element or operand: `LOW_W`, `HIGH_W`, `PCL_W`, `SMP_W` (00_scope.md R5); signed where a rule says `i16`. -/
abbrev Half := BitVec 16

/-- A 32-bit element or operand: `PC_W`, `VAL_W`, `TS_W`, `ERR_W` (00_scope.md R5); signed where a rule says `i32`. -/
abbrev Word := BitVec 32

/-- A set of interrupt sources, or of error kinds, as three bits (10_state.md R27, R28). -/
abbrev Bits3 := BitVec 3

end Sys2Proof
end

