-- ==== Sys2Proof/Config.lean ====
section
/-! DEFINITION. The parameters of one machine (00_scope.md R5) and the free values: what the spec leaves open stands here as
opaque constants, so that no proof can lean on a value. -/

namespace Sys2Proof.Config

/-- `BLANK_LEN - 1`. The spec leaves `BLANK_LEN` OPEN with `1 ≤ BLANK_LEN ≤ 65535` (92_eei_decisions.md D10,
93_implementation_defined.md U13), so this is any of 0 to 65534. Log entry 8. -/
opaque blankLenPred : Fin 65535

/-- `BLANK_LEN`: the reference-clock events the blanker stays asserted (00_scope.md R5). Log entry 8. -/
def blankLen : Half := BitVec.ofNat 16 (blankLenPred.val + 1)

/-- The value `SYS.RESET` leaves in `baseline`, for the draw of the given number (46_system.md R162 "any value of
their types", 93_implementation_defined.md U10). Free value, log entry 7. -/
opaque unspecifiedBaseline : Nat → Half

/-- The value `SYS.RESET` leaves in `neg_counts` (R162, U10). Free value, log entry 7. -/
opaque unspecifiedNegCounts : Nat → Word

/-- The value `SYS.RESET` leaves in `value` (R162, U10). Free value, log entry 7. -/
opaque unspecifiedValue : Nat → Word

/-- The value `SYS.RESET` leaves in `smp_data` (R162, U10). Free value, log entry 7. -/
opaque unspecifiedSmpData : Nat → Half

/-- `HAS_BLANKER` (00_scope.md R5, 92_eei_decisions.md D10). Log entry 14. -/
def hasBlanker : Bool := true

/-- `ACTIVE_LEVEL`: the synchronised comparator value during which pulses are present (00_scope.md R5, D8). Log entry 14. -/
def activeLevel : Bool := true

/-- `LOW_INIT`: the initial offset of the low cascade stage (00_scope.md R5, D5). -/
def lowInit : Half := 0

/-- `HIGH_INIT`: the initial offset of the high cascade stage (00_scope.md R5, D5). -/
def highInit : Half := 0

/-- The most sub-cycles one window may have: what a 16-bit high stage can count (43_window_controller.md R120). -/
def maxSubCycles : Nat := 65536

/-- `MAX_LEN`: the largest window length within the numeric bounds; no operation checks it (00_scope.md R5, R120). -/
def maxLen : Nat := 750000

/-- `D_MIN`, the least fractional denominator within `PACK`'s preconditions (00_scope.md R5); not checked (45_packer.md R152). -/
def dMin : Nat := 2049

/-- `D_MAX`, the greatest fractional denominator within `PACK`'s preconditions (00_scope.md R5); not checked (R152). -/
def dMax : Nat := 4094

end Sys2Proof.Config
end

