-- ==== Sys2Proof/Syntax.lean ====
section
/-! DEFINITION. The syntax: the 23 operations of 30_encoding.md R63, their kinds and formats, the interrupt sources and the
two trace modes. -/

namespace Sys2Proof

/-- The 23 operations (30_encoding.md R63), one constructor per row of spec/opcode_table.json, operands typed by R64. -/
inductive Instr
  /-- `SYS.RESET` (46_system.md R162). -/
  | sysReset
  /-- `EV.TICK c` (41_polarity_synchronizer.md R90). -/
  | evTick (c : Bool)
  /-- `EV.SAMPLE s` (44_measurement_sm.md R130); `s` is two's complement. -/
  | evSample (s : Half)
  /-- `ISR.OVF` (42_pulse_counter.md R103). -/
  | isrOvf
  /-- `ISR.BND` (44_measurement_sm.md R132). -/
  | isrBnd
  /-- `ISR.SMP` (44_measurement_sm.md R131). -/
  | isrSmp
  /-- `WC.CONFIGURE len, div` (43_window_controller.md R120). -/
  | wcConfigure (len : Word) (div : Half)
  /-- `WC.START` (43_window_controller.md R121). -/
  | wcStart
  /-- `WC.STOP` (43_window_controller.md R122). -/
  | wcStop
  /-- `WC.RESET` (43_window_controller.md R123). -/
  | wcReset
  /-- `NPC.RESET` (42_pulse_counter.md R102). -/
  | npcReset
  /-- `NPC.START` (42_pulse_counter.md R101). -/
  | npcStart
  /-- `NPC.STOP` (42_pulse_counter.md R104). -/
  | npcStop
  /-- `NPC.READ` (42_pulse_counter.md R105). -/
  | npcRead
  /-- `NPC.RDLO` (42_pulse_counter.md R106). -/
  | npcRdlo
  /-- `NPC.RDHI` (42_pulse_counter.md R107). -/
  | npcRdhi
  /-- `MSM.RESET` (44_measurement_sm.md R138). -/
  | msmReset
  /-- `MSM.STATUS` (44_measurement_sm.md R136). -/
  | msmStatus
  /-- `MSM.TAKE now` (44_measurement_sm.md R137). -/
  | msmTake (now : Word)
  /-- `MSM.ERRORS` (44_measurement_sm.md R139). -/
  | msmErrors
  /-- `PACK I, K, J, D` (45_packer.md R150). -/
  | pack (i : Word) (k : Half) (j : Word) (d : Half)
  /-- `IRQ.DEFER m` (46_system.md R160). -/
  | irqDefer (m : Bits3)
  /-- `IRQ.RESUME m` (46_system.md R161). -/
  | irqResume (m : Bits3)
  deriving DecidableEq, Repr

/-- The three interrupt sources (60_exceptions.md R175). -/
inductive Source
  /-- OVF, number 0: pulse-counter overflow. -/
  | ovf
  /-- BND, number 1: window boundary. -/
  | bnd
  /-- SMP, number 2: residual-charge sample ready. -/
  | smp
  deriving DecidableEq, Repr

/-- The one fixed handler step of a source (60_exceptions.md R175, R177). -/
def Source.handler : Source → Instr
  | .ovf => .isrOvf
  | .bnd => .isrBnd
  | .smp => .isrSmp

/-- Who issues an operation (00_scope.md R2). -/
inductive Kind
  /-- E: the hardware outside the host's control. -/
  | event
  /-- H: the body of one interrupt handler. -/
  | handlerStep
  /-- M: the main loop. -/
  | host
  deriving DecidableEq, Repr

/-- The column "kind" of 30_encoding.md R63. -/
def Instr.kind : Instr → Kind
  | .sysReset | .evTick _ | .evSample _ => .event
  | .isrOvf | .isrBnd | .isrSmp => .handlerStep
  | .wcConfigure _ _ | .wcStart | .wcStop | .wcReset => .host
  | .npcReset | .npcStart | .npcStop | .npcRead | .npcRdlo | .npcRdhi => .host
  | .msmReset | .msmStatus | .msmTake _ | .msmErrors => .host
  | .pack _ _ _ _ => .host
  | .irqDefer _ | .irqResume _ => .host

/-- The seven formats (30_encoding.md R62). -/
inductive Format
  /-- No operand. -/
  | n
  /-- One bit in the opcode byte. -/
  | t
  /-- A three-bit mask in the opcode byte. -/
  | m
  /-- One signed 16-bit operand. -/
  | s
  /-- One unsigned 32-bit operand. -/
  | w
  /-- Configuration: 32 and 16 bits. -/
  | c
  /-- Packer: 32, 16, 32 and 16 bits. -/
  | p
  deriving DecidableEq, Repr

/-- The length in bytes of a word of a format (30_encoding.md R62). -/
def Format.bytes : Format → Nat
  | .n | .t | .m => 1
  | .s => 3
  | .w => 5
  | .c => 7
  | .p => 13

/-- The column "format" of 30_encoding.md R63. -/
def Instr.format : Instr → Format
  | .evTick _ => .t
  | .evSample _ => .s
  | .wcConfigure _ _ => .c
  | .msmTake _ => .w
  | .pack _ _ _ _ => .p
  | .irqDefer _ | .irqResume _ => .m
  | .sysReset | .isrOvf | .isrBnd | .isrSmp => .n
  | .wcStart | .wcStop | .wcReset => .n
  | .npcReset | .npcStart | .npcStop | .npcRead | .npcRdlo | .npcRdhi => .n
  | .msmReset | .msmStatus | .msmErrors => .n

/-- How a trace is written (60_exceptions.md R182). -/
inductive TraceMode
  /-- The trace lists events and host operations; the model runs the handlers. -/
  | prompt
  /-- The trace lists handler steps too; the model runs exactly the listed operations. -/
  | explicit
  deriving DecidableEq, Repr

end Sys2Proof
end

