-- ==== Sys2Proof/Machine/State.lean ====
section
/-! DEFINITION. The state: the 22 elements of 10_state.md R10 and the model's own four fields, the results of 30_encoding.md
R68, the reasons an operation is refused, and the state after reset. -/

namespace Sys2Proof.Machine

/-- MeasurementStatus (10_state.md R22). All four are legal; there is no reserved value. -/
inductive MeasurementStatus
  /-- CLEAN, number 0. -/
  | clean
  /-- PREV_CHARGE, number 1. -/
  | prevCharge
  /-- NEGATIVE_COUNTS, number 2. -/
  | negativeCounts
  /-- RESULT_AVAIL, number 3. -/
  | resultAvail
  deriving DecidableEq, Repr

/-- The results of host operations (30_encoding.md R68). -/
inductive Response
  /-- `Ok`. -/
  | ok
  /-- `Err(NotDivisible)`. -/
  | errNotDivisible
  /-- `None`: `MSM.TAKE` when no result is available. -/
  | noResult
  /-- A u8: `MSM.STATUS`, `NPC.RDHI`. -/
  | u8 (v : Byte)
  /-- A u16: `NPC.RDLO`. -/
  | u16 (v : Half)
  /-- A u32: `NPC.READ`, `PACK`. -/
  | u32 (v : Word)
  /-- `Some(timestamp, value, neg_counts)`: `MSM.TAKE` when a result is available. -/
  | measurement (timestamp value negCounts : Word)
  /-- `(err_count, err_flags)`, the flags zero-extended to a u8: `MSM.ERRORS`. -/
  | errors (count : Word) (flags : Byte)
  deriving DecidableEq, Repr

/-- The state. The first 22 fields are the spec's elements S1 to S22 in the order of 10_state.md R10; the last four are
the MODEL's own (log entries 1, 2, 7, 9). -/
@[ext]
structure State where
  /-- S1 `win_len`: events per window; 0 when unconfigured (R13). -/
  winLen : Word
  /-- S2 `win_div`: events per sub-cycle; 0 when unconfigured (R13). -/
  winDiv : Half
  /-- S3 `wc_low`: events counted in the current sub-cycle (R14). -/
  wcLow : Half
  /-- S4 `wc_high`: sub-cycles counted in the current window (R14). -/
  wcHigh : Half
  /-- S5 `wc_run`: both cascade stages are enabled (R15). -/
  wcRun : Bool
  /-- S6 `bnd_pending`: the pending flag of source BND (R16). -/
  bndPending : Bool
  /-- S7 `blank_out`: the blanker's gating output (R17). -/
  blankOut : Bool
  /-- S8 `blank_cnt`: clock events left before the blanker deasserts (R17). -/
  blankCnt : Half
  /-- S9 `pol_q`: the synchronised comparator value (R18). -/
  polQ : Bool
  /-- S10 `pc_low`: the hardware low word of PulseCount (R19). -/
  pcLow : Half
  /-- S11 `pc_high`: the software high byte of PulseCount (R19). -/
  pcHigh : Byte
  /-- S12 `pc_run`: counting of the gated pulses is enabled (R20). -/
  pcRun : Bool
  /-- S13 `ovf_pending`: the pending flag of source OVF (R21). -/
  ovfPending : Bool
  /-- S14 `status`: where the Measurement State Machine stands (R22). -/
  status : MeasurementStatus
  /-- S15 `baseline`, two's complement: the sample the next is differenced against (R23). -/
  baseline : Half
  /-- S16 `neg_counts`: the pulse count captured at the boundary (R24). -/
  negCounts : Word
  /-- S17 `value`, two's complement: the difference of two samples (R25). -/
  value : Word
  /-- S18 `smp_data`, two's complement: the latest reading (R26). -/
  smpData : Half
  /-- S19 `smp_pending`: the pending flag of source SMP (R26). -/
  smpPending : Bool
  /-- S20 `err_count`: sequencing errors counted, saturating (R27). -/
  errCount : Word
  /-- S21 `err_flags`: kinds of sequencing error seen; bit 0 DUP_SAMPLE, 1 DUP_BOUNDARY, 2 OVERRUN (R27). -/
  errFlags : Bits3
  /-- S22 `irq_mask`: deferred sources; bit 0 OVF, 1 BND, 2 SMP (R28). -/
  irqMask : Bits3
  /-- The model's own: the bytes of the encoded trace not yet performed (30_encoding.md R61). Log entry 1. -/
  trace : List Byte
  /-- The model's own: the mode the trace is run in (60_exceptions.md R182). Log entry 2. -/
  mode : TraceMode
  /-- The model's own: what the operation just performed returned; none for events and handler steps
  (30_encoding.md R68). Log entry 9. -/
  resp : Option Response
  /-- The model's own: how many draws of unspecified values `SYS.RESET` has made (46_system.md R162). Log entry 7. -/
  draws : Nat
  deriving DecidableEq, Repr

/-- The reasons the machine stops with a fault: none, since "There are no faults or traps in the hardware itself"
(00_scope.md R6; 60_exceptions.md R170). Log entry 10. -/
inductive Fault
  deriving DecidableEq, Repr

/-- The reasons an operation is refused: "the spec gives the operation no meaning from this state; a model must not
continue past it as if it had one" (00_scope.md R6). Every one of them is safe: the model stops where the spec gives no
successor state. Log entry 11. -/
inductive Refusal
  /-- An instruction without a meaning; raised by no arm of this model. Safe. -/
  | notModelled (mnemonic : String)
  /-- Raised by the step when no operation is left in the trace. Safe. Log entry 3. -/
  | traceExhausted
  /-- U8: raised by the step on an illegal byte 0 (30_encoding.md R65). Safe. -/
  | illegalByte0 (b : Byte)
  /-- U8: raised by the step on a word cut short by the end of the trace (30_encoding.md R65). Safe. -/
  | truncatedWord (b : Byte)
  /-- Raised by the step on an `ISR.*` word in a prompt-mode trace (60_exceptions.md R182). Safe. -/
  | handlerInPromptTrace
  /-- U9: raised by a handler step whose source is not enabled (60_exceptions.md R178, R182). Safe. -/
  | handlerNotEnabled
  /-- U9: raised by a handler step while a source of higher priority is enabled (R178, R182). Safe. -/
  | handlerOutranked
  /-- U9: raised by a host operation while any source is enabled (R178, R182). Safe. -/
  | hostWhileHandlerEnabled
  /-- U1: raised by `WC.CONFIGURE` while the window counter runs (43_window_controller.md R120). Safe. -/
  | configureWhileRunning
  /-- U2: raised by `NPC.RESET` while counting is enabled (42_pulse_counter.md R102). Safe. -/
  | pulseResetWhileCounting
  /-- U3: raised by `WC.RESET` while the window counter runs (43_window_controller.md R123). Safe. -/
  | windowResetWhileRunning
  /-- U4: raised by `ISR.OVF` when `pc_high = 0xFF` (42_pulse_counter.md R103). Safe. -/
  | highByteOverflow
  /-- U5: raised by `WC.START` from a stopped state that is not configured and freshly reset
  (43_window_controller.md R121). Safe. -/
  | startNotFreshlyReset
  /-- U6: raised by `WC.CONFIGURE` when `len = 0` or `len div div > 65536` (43_window_controller.md R120). Safe. -/
  | windowOutOfRange
  /-- U7: raised by `PACK` when `numer < denom` and `denom ≥ 2^32` (45_packer.md R150). Safe. -/
  | packOutOfDomain
  deriving DecidableEq, Repr

/-- The state after reset: the reset column of 10_state.md R10. `baseline`, `negCounts`, `value` and `smpData` have no
reset value in the spec and are 0 here (DESIGN CHOICE, log entry 6, unsafe); the trace is empty, the mode explicit, nothing
has been returned and no draw made (log entries 1, 2, 7, 9). -/
def State.reset : State where
  winLen := 0
  winDiv := 0
  wcLow := 0
  wcHigh := 0
  wcRun := false
  bndPending := false
  blankOut := false
  blankCnt := 0
  polQ := false
  pcLow := 0
  pcHigh := 0
  pcRun := false
  ovfPending := false
  status := .clean
  baseline := 0
  negCounts := 0
  value := 0
  smpData := 0
  smpPending := false
  errCount := 0
  errFlags := 0b000
  irqMask := 0b111
  trace := []
  mode := .explicit
  resp := none
  draws := 0

/-- The state with the result of a host operation on the result port. -/
def State.ret (s : State) (r : Response) : State := { s with resp := some r }

/-- The state with no result on the result port: an environment event or a handler step returns nothing
(00_scope.md R6). -/
def State.silent (s : State) : State := { s with resp := none }

/-- The state with another remaining trace. -/
def State.withTrace (s : State) (bs : List Byte) : State := { s with trace := bs }

end Sys2Proof.Machine
end

