-- ==== Sys2Proof/Machine/Operands.lean ====
section
/-! DEFINITION. The derived quantities the operations compute with (00_scope.md R6, R7): the recombined pulse count, the
sub-cycles of a window, the position in it, and the packer's products. Operands themselves are immediates, taken as they are
(30_encoding.md R64). -/

namespace Sys2Proof.Machine

/-- `combine(low, high) = zext_32(high ++ low)` (00_scope.md R6). -/
def combine (low : Half) (high : Byte) : Word := (high ++ low).setWidth 32

/-- PulseCount as a natural number: `pc_high * 65536 + pc_low` (20_memory.md R41). -/
def pulseCount (s : State) : Nat := s.pcHigh.toNat * 65536 + s.pcLow.toNat

/-- `sub_per_win = win_len div win_div` (00_scope.md R6), 0 when no window is configured. -/
def subPerWin (s : State) : Nat := s.winLen.toNat / s.winDiv.toNat

/-- `position = wc_high * win_div + wc_low` (00_scope.md R6). -/
def position (s : State) : Nat := s.wcHigh.toNat * s.winDiv.toNat + s.wcLow.toNat

/-- `sext_32(s) - sext_32(baseline)`, the exact difference of two samples (44_measurement_sm.md R131). -/
def sampleDifference (new old : Half) : Word := new.signExtend 32 - old.signExtend 32

/-- `len` is no multiple of `div`, or `div` is 0: what `WC.CONFIGURE` answers with `Err(NotDivisible)`
(43_window_controller.md R120). -/
def notDivisible (len : Word) (div : Half) : Bool := div == 0 || len.toNat % div.toNat != 0

/-- `len = 0`, or more sub-cycles than the high stage can count (43_window_controller.md R120). -/
def windowTooShortOrLong (len : Word) (div : Half) : Bool :=
  len == 0 || decide (Config.maxSubCycles < len.toNat / div.toNat)

/-- `denom = J * D`, exact (45_packer.md R150). -/
def packDenom (j : Word) (d : Half) : Nat := j.toNat * d.toNat

/-- `numer = I * D + K`, exact (45_packer.md R150). -/
def packNumer (i : Word) (k d : Half) : Nat := i.toNat * d.toNat + k.toNat

/-- `((numer << 32) + (denom div 2)) div denom`, exact (45_packer.md R150). -/
def packQuotient (numer denom : Nat) : Nat := (numer * 2 ^ 32 + denom / 2) / denom

/-- A MeasurementStatus as a number (30_encoding.md R69). -/
def statusCode : MeasurementStatus → BitVec 2
  | .clean => 0
  | .prevCharge => 1
  | .negativeCounts => 2
  | .resultAvail => 3

end Sys2Proof.Machine
end

