-- ==== Sys2Proof/Machine/Flags.lean ====
section
/-! DEFINITION. The flags of 10_state.md R29: pending, deferred and enabled sources, which handler comes next, and the record of
sequencing errors. The block has no arithmetic condition codes. -/

namespace Sys2Proof.Machine

/-- The bit of `irq_mask`, and of the operand `m`, that names a source (30_encoding.md R69). -/
def sourceNumber : Source → Nat
  | .ovf => 0
  | .bnd => 1
  | .smp => 2

/-- `pending(X)` (00_scope.md R6). -/
def pending (x : Source) (s : State) : Bool :=
  match x with
  | .ovf => s.ovfPending
  | .bnd => s.bndPending
  | .smp => s.smpPending

/-- `deferred(X)` (00_scope.md R6). -/
def deferred (x : Source) (s : State) : Bool := s.irqMask.getLsbD (sourceNumber x)

/-- `enabled(X) = pending(X) = 1 and deferred(X) = 0` (00_scope.md R6). -/
def enabled (x : Source) (s : State) : Bool := pending x s && !deferred x s

/-- `IRQ_PRIO`: OVF first, then BND, then SMP (00_scope.md R5, 60_exceptions.md R178). -/
def irqPriority : List Source := [.ovf, .bnd, .smp]

/-- The one source whose handler step can occur: the member of highest priority of the set of enabled sources; none
when that set is empty (60_exceptions.md R178). -/
def nextHandler (s : State) : Option Source := irqPriority.find? (enabled · s)

/-- The kinds of sequencing error (60_exceptions.md R172). -/
inductive SequencingError
  /-- Code 0: sample ready in PREV_CHARGE. -/
  | dupSample
  /-- Code 1: window boundary in NEGATIVE_COUNTS. -/
  | dupBoundary
  /-- Code 2: sample ready or window boundary in RESULT_AVAIL. -/
  | overrun
  deriving DecidableEq, Repr

/-- The bit of `err_flags` of a kind of error (30_encoding.md R69). -/
def errorFlag : SequencingError → Bits3
  | .dupSample => 0b001
  | .dupBoundary => 0b010
  | .overrun => 0b100

/-- `min(n + 1, 0xFFFFFFFF)` (44_measurement_sm.md R134). -/
def saturatingSucc (n : Word) : Word := if n = 0xFFFFFFFF then n else n + 1

/-- `SEQ.ERROR(k)`: counts, saturating, and sets the sticky flag, and nothing else (44_measurement_sm.md R134). -/
def seqError (k : SequencingError) (s : State) : State :=
  { s with errCount := saturatingSucc s.errCount, errFlags := s.errFlags ||| errorFlag k }

end Sys2Proof.Machine
end

