-- ==== Sys2Proof/Machine/Ops.lean ====
section
/-! DEFINITION. The named operations the meanings share: the hardware procedures of a clock event (files 40 and 42 of the
spec), the resets of the two counters, the rearm at a boundary, taking an interrupt, and the condition under which the main
loop may act (60_exceptions.md R178 to R180). -/

namespace Sys2Proof.Machine

/-- `BLANK.ADVANCE` (40_wide_event_counter.md R84). -/
def blankAdvance (s : State) : State :=
  if s.blankOut then
    { s with blankCnt := s.blankCnt - 1, blankOut := decide (s.blankCnt - 1 ≠ 0) }
  else s

/-- `BLANK.TRIGGER` for a blanker of length `len` (40_wide_event_counter.md R85). -/
def blankTrigger (len : Half) (s : State) : State := { s with blankOut := true, blankCnt := len }

/-- `BOUNDARY` (40_wide_event_counter.md R82). -/
def boundary (len : Half) (s : State) : State :=
  let s := { s with bndPending := true }
  if Config.hasBlanker then blankTrigger len s else s

/-- The low stage stands at its compare value `win_div - 1` (40_wide_event_counter.md R81). -/
def lowAtTop (s : State) : Bool := s.wcLow.toNat + 1 == s.winDiv.toNat

/-- The high stage stands at its compare value `sub_per_win - 1` (40_wide_event_counter.md R81). -/
def highAtTop (s : State) : Bool := s.wcHigh.toNat + 1 == subPerWin s

/-- `WEC.ADVANCE` with a blanker of length `len` (40_wide_event_counter.md R81). -/
def wecAdvance (len : Half) (s : State) : State :=
  if s.wcRun then
    if lowAtTop s then
      if highAtTop s then boundary len { s with wcLow := 0, wcHigh := 0 }
      else { s with wcLow := 0, wcHigh := s.wcHigh + 1 }
    else { s with wcLow := s.wcLow + 1 }
  else s

/-- `NPC.COUNT` (42_pulse_counter.md R100). -/
def npcCount (s : State) : State :=
  if s.pcRun then
    if s.pcLow = 0xFFFF then { s with pcLow := 0, ovfPending := true }
    else { s with pcLow := s.pcLow + 1 }
  else s

/-- The body of `EV.TICK c` with a blanker of length `len`, in the order of 41_polarity_synchronizer.md R90: sample,
gate, blanker, pulse, window. -/
def clockEvent (len : Half) (c : Bool) (s : State) : State :=
  let s := { s with polQ := c }
  let pulse := s.polQ == Config.activeLevel
  let s := blankAdvance s
  let s := if pulse then npcCount s else s
  wecAdvance len s

/-- The reset of the Negative-Pulse Counter: both parts to 0 (42_pulse_counter.md R102, 44_measurement_sm.md R132 step 3). -/
def clearPulseCount (s : State) : State := { s with pcLow := 0, pcHigh := 0 }

/-- The reset of the Wide Event Counter: the stages to their initial offsets and no boundary pending
(43_window_controller.md R123, 44_measurement_sm.md R132 step 4). -/
def clearWindow (s : State) : State :=
  { s with wcLow := Config.lowInit, wcHigh := Config.highInit, bndPending := false }

/-- The transition of the state machine on a window boundary (44_measurement_sm.md R132 step 2, R133). -/
def boundaryTransition (s : State) : State :=
  match s.status with
  | .clean => s
  | .prevCharge => { s with negCounts := combine s.pcLow s.pcHigh, status := .negativeCounts }
  | .negativeCounts => seqError .dupBoundary s
  | .resultAvail => seqError .overrun s

/-- The transition of the state machine on a sample (44_measurement_sm.md R131, R133). -/
def sampleTransition (s : State) : State :=
  match s.status with
  | .clean => { s with baseline := s.smpData, status := .prevCharge }
  | .prevCharge => seqError .dupSample s
  | .negativeCounts =>
    { s with value := sampleDifference s.smpData s.baseline, baseline := s.smpData, status := .resultAvail }
  | .resultAvail => seqError .overrun s

/-- `WINDOW.REARM` around what happens at the boundary: both counters stopped, the transition, both counters reset, the
run bits restored to what they were on entry (44_measurement_sm.md R132, 30_encoding.md R67). -/
def windowRearm (atBoundary : State → State) (s : State) : State :=
  let runW := s.wcRun
  let runP := s.pcRun
  let s := { s with wcRun := false, pcRun := false }
  let s := atBoundary s
  let s := clearPulseCount s
  let s := clearWindow s
  { s with wcRun := runW, pcRun := runP }

/-- TAKING AN INTERRUPT. The handler step of a source can occur only when its source is enabled and no source of higher
priority is (60_exceptions.md R178). On entry nothing is saved, no mode changes, `irq_mask` is left alone (R179); the body
is one atomic operation that returns nothing to anyone; on return nothing is restored (R180). -/
def takeInterrupt (x : Source) (body : State → Host.Outcome State Fault Refusal) (s : State) :
    Host.Outcome State Fault Refusal :=
  if !enabled x s then .refused .handlerNotEnabled
  else if nextHandler s ≠ some x then .refused .handlerOutranked
  else body s

/-- RETURN FROM A HANDLER. "There is no return operation": nothing was saved and nothing is restored; the step only leaves
no result (60_exceptions.md R180). -/
def returnFromHandler (s : State) : Host.Outcome State Fault Refusal := .next s.silent

/-- A host operation: "No host operation can occur while `E` is not empty" (60_exceptions.md R178). -/
def hostOperation (body : State → Host.Outcome State Fault Refusal) (s : State) : Host.Outcome State Fault Refusal :=
  match nextHandler s with
  | some _ => .refused .hostWhileHandlerEnabled
  | none => body s

/-- A host operation that changes the state by `f` and returns `r`. -/
def completes (f : State → State) (r : Response) (s : State) : Host.Outcome State Fault Refusal := .next ((f s).ret r)

end Sys2Proof.Machine
end

