-- ==== Sys2Proof/Machine/Deferral.lean ====
section
/-! DEFINITION. The critical-section primitive: `IRQ.DEFER`, `IRQ.RESUME`. -/

namespace Sys2Proof.Machine

/-- `IRQ.DEFER m` (46_system.md R160): the mask is a set, not a nesting counter. -/
def execIrqDefer (m : Bits3) (s : State) : Host.Outcome State Fault Refusal :=
  hostOperation (completes (fun s => { s with irqMask := s.irqMask ||| m }) .ok) s

/-- `IRQ.RESUME m` (46_system.md R161); the complement is at 3 bits. -/
def execIrqResume (m : Bits3) (s : State) : Host.Outcome State Fault Refusal :=
  hostOperation (completes (fun s => { s with irqMask := s.irqMask &&& ~~~m }) .ok) s

end Sys2Proof.Machine
end

