-- ==== Sys2Proof/Machine/Environment.lean ====
section
/-! DEFINITION. The environment events: `SYS.RESET`, `EV.TICK`, `EV.SAMPLE`. They are possible in every state, whatever is
pending (60_exceptions.md R178). -/

namespace Sys2Proof.Machine

/-- `SYS.RESET` (46_system.md R162). The four data registers with no reset value take free values, one draw a reset (log
entry 7); the trace, its mode and the counter of draws are not the block's. -/
def execSysReset (s : State) : Host.Outcome State Fault Refusal :=
  .next { State.reset with
    baseline := Config.unspecifiedBaseline s.draws
    negCounts := Config.unspecifiedNegCounts s.draws
    value := Config.unspecifiedValue s.draws
    smpData := Config.unspecifiedSmpData s.draws
    draws := s.draws + 1
    trace := s.trace
    mode := s.mode
    resp := none }

/-- `EV.TICK c` (41_polarity_synchronizer.md R90). -/
def execEvTick (c : Bool) (s : State) : Host.Outcome State Fault Refusal :=
  .next (clockEvent Config.blankLen c s).silent

/-- `EV.SAMPLE s` (44_measurement_sm.md R130). -/
def execEvSample (reading : Half) (s : State) : Host.Outcome State Fault Refusal :=
  .next { s with smpData := reading, smpPending := true }.silent

end Sys2Proof.Machine
end

