-- ==== Sys2Proof/Machine/Handlers.lean ====
section
/-! DEFINITION. The three handler steps: `ISR.OVF`, `ISR.BND`, `ISR.SMP`, each over the shared operation that takes an
interrupt. -/

namespace Sys2Proof.Machine

/-- `ISR.OVF` (42_pulse_counter.md R103). -/
def execIsrOvf (s : State) : Host.Outcome State Fault Refusal :=
  takeInterrupt .ovf (fun s =>
    if s.pcHigh = 0xFF then .refused .highByteOverflow
    else returnFromHandler { s with pcHigh := s.pcHigh + 1, ovfPending := false }) s

/-- `ISR.BND` (44_measurement_sm.md R132). -/
def execIsrBnd (s : State) : Host.Outcome State Fault Refusal :=
  takeInterrupt .bnd (fun s => returnFromHandler (windowRearm boundaryTransition s)) s

/-- `ISR.SMP` (44_measurement_sm.md R131). -/
def execIsrSmp (s : State) : Host.Outcome State Fault Refusal :=
  takeInterrupt .smp (fun s => returnFromHandler (sampleTransition { s with smpPending := false })) s

end Sys2Proof.Machine
end

