-- ==== Sys2Proof/Machine/Measurement.lean ====
section
/-! DEFINITION. The Measurement State Machine's host operations: `MSM.RESET`, `MSM.STATUS`, `MSM.TAKE`, `MSM.ERRORS`. -/

namespace Sys2Proof.Machine

/-- `MSM.RESET` (44_measurement_sm.md R138). -/
def execMsmReset (s : State) : Host.Outcome State Fault Refusal :=
  hostOperation (completes (fun s => { s with status := .clean }) .ok) s

/-- `MSM.STATUS` (44_measurement_sm.md R136). -/
def execMsmStatus (s : State) : Host.Outcome State Fault Refusal :=
  hostOperation (fun s => completes id (.u8 ((statusCode s.status).setWidth 8)) s) s

/-- `MSM.TAKE now` (44_measurement_sm.md R137): test, read and clear in one operation. -/
def execMsmTake (now : Word) (s : State) : Host.Outcome State Fault Refusal :=
  hostOperation (fun s =>
    if s.status = .resultAvail then
      completes (fun s => { s with status := .clean }) (.measurement now s.value s.negCounts) s
    else completes id .noResult s) s

/-- `MSM.ERRORS` (44_measurement_sm.md R139): reading does not clear. -/
def execMsmErrors (s : State) : Host.Outcome State Fault Refusal :=
  hostOperation (fun s => completes id (.errors s.errCount (s.errFlags.setWidth 8)) s) s

end Sys2Proof.Machine
end

