-- ==== Sys2Proof/Machine/Packer.lean ====
section
/-! DEFINITION. The Fixed-Point Packer: `PACK`. It reads and writes no element of the block (45_packer.md R151). -/

namespace Sys2Proof.Machine

/-- What `PACK I, K, J, D` returns; none where the spec gives the operands no meaning, `numer < denom` with
`denom ≥ 2^32` (45_packer.md R150). -/
def packResult (i : Word) (k : Half) (j : Word) (d : Half) : Option Word :=
  let denom := packDenom j d
  let numer := packNumer i k d
  if denom ≤ numer then some 0xFFFFFFFF
  else if denom < 2 ^ 32 then some (BitVec.ofNat 32 (packQuotient numer denom))
  else none

/-- `PACK I, K, J, D` (45_packer.md R150). -/
def execPack (i : Word) (k : Half) (j : Word) (d : Half) (s : State) : Host.Outcome State Fault Refusal :=
  hostOperation (fun s =>
    match packResult i k j d with
    | some r => completes id (.u32 r) s
    | none => .refused .packOutOfDomain) s

end Sys2Proof.Machine
end

