-- ==== Sys2Proof/Machine/PulseCounter.lean ====
section
/-! DEFINITION. The Negative-Pulse Counter's host operations: `NPC.RESET`, `NPC.START`, `NPC.STOP`, `NPC.READ`, `NPC.RDLO`,
`NPC.RDHI`. -/

namespace Sys2Proof.Machine

/-- `NPC.RESET` (42_pulse_counter.md R102): stopped only; `ovf_pending` is left alone. -/
def execNpcReset (s : State) : Host.Outcome State Fault Refusal :=
  hostOperation (fun s =>
    if s.pcRun then .refused .pulseResetWhileCounting
    else completes clearPulseCount .ok s) s

/-- `NPC.START` (42_pulse_counter.md R101). -/
def execNpcStart (s : State) : Host.Outcome State Fault Refusal :=
  hostOperation (completes (fun s => { s with pcRun := true }) .ok) s

/-- `NPC.STOP` (42_pulse_counter.md R104). -/
def execNpcStop (s : State) : Host.Outcome State Fault Refusal :=
  hostOperation (completes (fun s => { s with pcRun := false }) .ok) s

/-- `NPC.READ` (42_pulse_counter.md R105): both parts from one state, no compensation for a pending overflow. -/
def execNpcRead (s : State) : Host.Outcome State Fault Refusal :=
  hostOperation (fun s => completes id (.u32 (combine s.pcLow s.pcHigh)) s) s

/-- `NPC.RDLO` (42_pulse_counter.md R106). -/
def execNpcRdlo (s : State) : Host.Outcome State Fault Refusal :=
  hostOperation (fun s => completes id (.u16 s.pcLow) s) s

/-- `NPC.RDHI` (42_pulse_counter.md R107). -/
def execNpcRdhi (s : State) : Host.Outcome State Fault Refusal :=
  hostOperation (fun s => completes id (.u8 s.pcHigh) s) s

end Sys2Proof.Machine
end

