-- ==== Sys2Proof/Machine/WindowController.lean ====
section
/-! DEFINITION. The Window Controller's host operations: `WC.CONFIGURE`, `WC.START`, `WC.STOP`, `WC.RESET`. -/

namespace Sys2Proof.Machine

/-- `WC.CONFIGURE len, div` (43_window_controller.md R120): stopped only; `Err(NotDivisible)` writes nothing; a window the
two stages cannot count is refused. -/
def execWcConfigure (len : Word) (div : Half) (s : State) : Host.Outcome State Fault Refusal :=
  hostOperation (fun s =>
    if s.wcRun then .refused .configureWhileRunning
    else if notDivisible len div then completes id .errNotDivisible s
    else if windowTooShortOrLong len div then .refused .windowOutOfRange
    else completes (fun s => { s with winLen := len, winDiv := div }) .ok s) s

/-- The stopped states from which `WC.START` is allowed: configured, both stages at their initial offsets, no boundary
pending (43_window_controller.md R121). -/
def freshlyReset (s : State) : Bool :=
  s.winDiv != 0 && s.wcLow == Config.lowInit && s.wcHigh == Config.highInit && !s.bndPending

/-- `WC.START` (43_window_controller.md R121): no effect when already running. -/
def execWcStart (s : State) : Host.Outcome State Fault Refusal :=
  hostOperation (fun s =>
    if s.wcRun then completes id .ok s
    else if freshlyReset s then completes (fun s => { s with wcRun := true }) .ok s
    else .refused .startNotFreshlyReset) s

/-- `WC.STOP` (43_window_controller.md R122). -/
def execWcStop (s : State) : Host.Outcome State Fault Refusal :=
  hostOperation (completes (fun s => { s with wcRun := false }) .ok) s

/-- `WC.RESET` (43_window_controller.md R123). -/
def execWcReset (s : State) : Host.Outcome State Fault Refusal :=
  hostOperation (fun s =>
    if s.wcRun then .refused .windowResetWhileRunning
    else completes clearWindow .ok s) s

end Sys2Proof.Machine
end

