-- ==== Sys2Proof/Machine/Dispatch.lean ====
section
/-! DEFINITION. One arm per operation of 30_encoding.md R63, each one call of its meaning. -/

namespace Sys2Proof.Machine

def exec (i : Instr) (s : State) : Host.Outcome State Fault Refusal :=
  match i with
  | .sysReset => Sys2Proof.Machine.execSysReset s
  | .evTick c => Sys2Proof.Machine.execEvTick c s
  | .evSample r => Sys2Proof.Machine.execEvSample r s
  | .isrOvf => Sys2Proof.Machine.execIsrOvf s
  | .isrBnd => Sys2Proof.Machine.execIsrBnd s
  | .isrSmp => Sys2Proof.Machine.execIsrSmp s
  | .wcConfigure len div => Sys2Proof.Machine.execWcConfigure len div s
  | .wcStart => Sys2Proof.Machine.execWcStart s
  | .wcStop => Sys2Proof.Machine.execWcStop s
  | .wcReset => Sys2Proof.Machine.execWcReset s
  | .npcReset => Sys2Proof.Machine.execNpcReset s
  | .npcStart => Sys2Proof.Machine.execNpcStart s
  | .npcStop => Sys2Proof.Machine.execNpcStop s
  | .npcRead => Sys2Proof.Machine.execNpcRead s
  | .npcRdlo => Sys2Proof.Machine.execNpcRdlo s
  | .npcRdhi => Sys2Proof.Machine.execNpcRdhi s
  | .msmReset => Sys2Proof.Machine.execMsmReset s
  | .msmStatus => Sys2Proof.Machine.execMsmStatus s
  | .msmTake now => Sys2Proof.Machine.execMsmTake now s
  | .msmErrors => Sys2Proof.Machine.execMsmErrors s
  | .pack a k j d => Sys2Proof.Machine.execPack a k j d s
  | .irqDefer m => Sys2Proof.Machine.execIrqDefer m s
  | .irqResume m => Sys2Proof.Machine.execIrqResume m s

end Sys2Proof.Machine
end

