-- ==== Sys2Proof/WellFormed.lean ====
section
/-! DEFINITION. Which operations are well formed, and which a trace of a mode may list.
The widths of the operands are in their types, and "every bit pattern of every operand field is a legal encoding"
(30_encoding.md R64), so no operation is ill formed by itself; the one check of the syntax is the trace's mode
(60_exceptions.md R182). Log entry 15. -/

namespace Sys2Proof

/-- Every operation is well formed, whatever its operands (30_encoding.md R64); whether it then completes is its own
rule's matter. -/
def Instr.wellFormed (_ : Instr) : Bool := true

/-- A trace of this mode may list this operation: "A trace that lists an `ISR.*` word is not a prompt-mode trace"
(60_exceptions.md R182). -/
def TraceMode.admits : TraceMode → Instr → Bool
  | .explicit, i => i.wellFormed
  | .prompt, i => i.wellFormed && decide (i.kind ≠ .handlerStep)

/-- Every operation of a list may stand in a trace of this mode. -/
def TraceMode.admitsAll (m : TraceMode) (is : List Instr) : Bool := is.all m.admits

end Sys2Proof
end

