-- ==== Sys2Proof/Decode.lean ====
section
/-! DEFINITION. The decoder of operation words (30_encoding.md R61 to R65), total on any bytes, and the encoder, both written
from the formats of R62 and the opcode map of R63. -/

namespace Sys2Proof

/-- Why no operation can be read from the front of an encoded trace (30_encoding.md R65). -/
inductive DecodeError
  /-- Nothing is left of the trace. -/
  | noWord
  /-- "Every value of byte 0 not matched by a row of rule R63 is illegal" (R65). -/
  | illegalByte0 (b : Byte)
  /-- "A word whose operand bytes run past the end of the encoded trace is likewise invalid" (R65). -/
  | truncatedWord (b : Byte)
  deriving DecidableEq, Repr

/-- The 16-bit operand whose less significant byte comes first (20_memory.md R42). -/
def ofLe16 (b0 b1 : Byte) : Half := b1 ++ b0

/-- The 32-bit operand whose less significant bytes come first (20_memory.md R42). -/
def ofLe32 (b0 b1 b2 b3 : Byte) : Word := b3 ++ b2 ++ b1 ++ b0

/-- A word spells an operation iff `(byte0 & mask) = match` (30_encoding.md R63). -/
def spells (b pattern mask : Byte) : Bool := b &&& mask == pattern

/-- What byte 0 spells: a whole word of one byte (formats N, T, M), or the opcode byte of one of the four operations whose
operands follow it (formats S, W, C, P) (30_encoding.md R62). -/
inductive Opcode
  /-- The byte is the whole word of this operation. -/
  | whole (i : Instr)
  /-- `EV.SAMPLE`, 2 bytes follow. -/
  | sample
  /-- `WC.CONFIGURE`, 6 bytes follow. -/
  | configure
  /-- `MSM.TAKE`, 4 bytes follow. -/
  | take
  /-- `PACK`, 12 bytes follow. -/
  | pack
  deriving DecidableEq, Repr

/-- The opcode map: one line per row of 30_encoding.md R63, in its order; none for an illegal byte 0 (R65). -/
def opcodeOf (b : Byte) : Option Opcode :=
  if spells b 0x00 0xFF then some (.whole .sysReset)
  else if spells b 0x02 0xFE then some (.whole (.evTick (b.getLsbD 0)))
  else if spells b 0x04 0xFF then some .sample
  else if spells b 0x08 0xFF then some (.whole .isrOvf)
  else if spells b 0x09 0xFF then some (.whole .isrBnd)
  else if spells b 0x0A 0xFF then some (.whole .isrSmp)
  else if spells b 0x10 0xFF then some .configure
  else if spells b 0x11 0xFF then some (.whole .wcStart)
  else if spells b 0x12 0xFF then some (.whole .wcStop)
  else if spells b 0x13 0xFF then some (.whole .wcReset)
  else if spells b 0x20 0xFF then some (.whole .npcReset)
  else if spells b 0x21 0xFF then some (.whole .npcStart)
  else if spells b 0x22 0xFF then some (.whole .npcStop)
  else if spells b 0x23 0xFF then some (.whole .npcRead)
  else if spells b 0x24 0xFF then some (.whole .npcRdlo)
  else if spells b 0x25 0xFF then some (.whole .npcRdhi)
  else if spells b 0x30 0xFF then some (.whole .msmReset)
  else if spells b 0x31 0xFF then some (.whole .msmStatus)
  else if spells b 0x32 0xFF then some .take
  else if spells b 0x33 0xFF then some (.whole .msmErrors)
  else if spells b 0x40 0xFF then some .pack
  else if spells b 0x50 0xF8 then some (.whole (.irqDefer (b.setWidth 3)))
  else if spells b 0x58 0xF8 then some (.whole (.irqResume (b.setWidth 3)))
  else none

/-- The operation of an opcode and the operand bytes after it, in the order of 30_encoding.md R62, with the bytes after the
word; none where there are too few. -/
def assemble : Opcode → List Byte → Option (Instr × List Byte)
  | .whole i, rest => some (i, rest)
  | .sample, s0 :: s1 :: rest => some (.evSample (ofLe16 s0 s1), rest)
  | .configure, l0 :: l1 :: l2 :: l3 :: d0 :: d1 :: rest =>
    some (.wcConfigure (ofLe32 l0 l1 l2 l3) (ofLe16 d0 d1), rest)
  | .take, n0 :: n1 :: n2 :: n3 :: rest => some (.msmTake (ofLe32 n0 n1 n2 n3), rest)
  | .pack, i0 :: i1 :: i2 :: i3 :: k0 :: k1 :: j0 :: j1 :: j2 :: j3 :: d0 :: d1 :: rest =>
    some (.pack (ofLe32 i0 i1 i2 i3) (ofLe16 k0 k1) (ofLe32 j0 j1 j2 j3) (ofLe16 d0 d1), rest)
  | _, _ => none

/-- The operation that byte 0 and the bytes after it spell, and the bytes after the word: "Byte 0 is the opcode byte and
alone determines the operation, its format and its length" (30_encoding.md R61). -/
def decodeWord (b : Byte) (rest : List Byte) : Except DecodeError (Instr × List Byte) :=
  match opcodeOf b with
  | none => .error (.illegalByte0 b)
  | some op =>
    match assemble op rest with
    | none => .error (.truncatedWord b)
    | some r => .ok r

/-- The first operation of an encoded trace and the bytes after its word (30_encoding.md R61). -/
def decode : List Byte → Except DecodeError (Instr × List Byte)
  | [] => .error .noWord
  | b :: rest => decodeWord b rest

/-- A whole encoded trace as operations: "a decoder reads byte 0, looks up the length, takes that many bytes, and
repeats" (30_encoding.md R61). The first argument bounds the number of words; the length of the trace is always enough. -/
def decodeTraceUpTo : Nat → List Byte → Except DecodeError (List Instr)
  | _, [] => .ok []
  | 0, _ :: _ => .error .noWord
  | fuel + 1, b :: rest =>
    match decodeWord b rest with
    | .error e => .error e
    | .ok (i, rest) => (decodeTraceUpTo fuel rest).map (i :: ·)

/-- The operations of an encoded trace, or why it is invalid (30_encoding.md R61, R65). -/
def decodeTrace (bs : List Byte) : Except DecodeError (List Instr) := decodeTraceUpTo bs.length bs

/-- The two bytes of a 16-bit value, the less significant first (20_memory.md R42). -/
def le16 (v : Half) : List Byte := [v.extractLsb' 0 8, v.extractLsb' 8 8]

/-- The four bytes of a 32-bit value, the less significant first (20_memory.md R42). -/
def le32 (v : Word) : List Byte := [v.extractLsb' 0 8, v.extractLsb' 8 8, v.extractLsb' 16 8, v.extractLsb' 24 8]

/-- The word of an operation (30_encoding.md R62, R63). -/
def encode : Instr → List Byte
  | .sysReset => [0x00]
  | .evTick c => [0x02 ||| (BitVec.ofBool c).setWidth 8]
  | .evSample s => 0x04 :: le16 s
  | .isrOvf => [0x08]
  | .isrBnd => [0x09]
  | .isrSmp => [0x0A]
  | .wcConfigure len div => 0x10 :: (le32 len ++ le16 div)
  | .wcStart => [0x11]
  | .wcStop => [0x12]
  | .wcReset => [0x13]
  | .npcReset => [0x20]
  | .npcStart => [0x21]
  | .npcStop => [0x22]
  | .npcRead => [0x23]
  | .npcRdlo => [0x24]
  | .npcRdhi => [0x25]
  | .msmReset => [0x30]
  | .msmStatus => [0x31]
  | .msmTake now => 0x32 :: le32 now
  | .msmErrors => [0x33]
  | .pack i k j d => 0x40 :: (le32 i ++ le16 k ++ le32 j ++ le16 d)
  | .irqDefer m => [0x50 ||| m.setWidth 8]
  | .irqResume m => [0x58 ||| m.setWidth 8]

/-- An encoded trace: "the concatenation of its operation words with no padding, alignment, separator or length
prefix" (30_encoding.md R61). -/
def encodeTrace (is : List Instr) : List Byte := is.flatMap encode

/-- The `k` lowest bytes of a number, the least significant first. -/
def bytesOfNat : Nat → Nat → List Byte
  | 0, _ => []
  | k + 1, w => BitVec.ofNat 8 w :: bytesOfNat k (w / 256)

/-- The bytes of a row of the opcode table: bit 0 of `w` is the least significant bit of byte 0, later bytes count on
from it, and the bits from `nbits` up to the longest word (13 bytes, R62) are zero. -/
def tableBytes (nbits w : Nat) : List Byte := bytesOfNat 13 (w % 2 ^ nbits)

/-- The instruction the decoder reads from a row of the opcode table whose bits are `w`; none where it refuses. -/
def decodeTableWord (nbits w : Nat) : Option Instr :=
  match decode (tableBytes nbits w) with
  | .ok (i, _) => some i
  | .error _ => none

/-- The bytes of one word at the front of a list: those `decode` takes; all of them where it refuses. -/
def firstWord (bs : List Byte) : List Byte :=
  match decode bs with
  | .ok (_, rest) => bs.take (bs.length - rest.length)
  | .error _ => bs

end Sys2Proof
end

