-- ==== Sys2Proof/Machine/Fetch.lean ====
section
/-! DEFINITION. Which operation comes next: the one the dispatch rule puts in (prompt mode) or the one the trace lists
(60_exceptions.md R178, R182). -/

namespace Sys2Proof.Machine

/-- The refusal of a trace at a word that cannot be read (30_encoding.md R65, 93_implementation_defined.md U8). -/
def refusalOf : DecodeError → Refusal
  | .noWord => .traceExhausted
  | .illegalByte0 b => .illegalByte0 b
  | .truncatedWord b => .truncatedWord b

/-- The operation the trace lists next, and the state with that word taken off the trace; a word the trace's mode does not
admit is refused (60_exceptions.md R182). -/
def listedOperation (s : State) : Except Refusal (Instr × State) :=
  match decode s.trace with
  | .error e => .error (refusalOf e)
  | .ok (i, rest) => if s.mode.admits i then .ok (i, s.withTrace rest) else .error .handlerInPromptTrace

/-- The operation that comes next. In prompt mode the enabled handler of highest priority goes before the next listed
operation and takes nothing off the trace; in explicit mode the trace lists everything (60_exceptions.md R182). -/
def nextOperation (s : State) : Except Refusal (Instr × State) :=
  match s.mode with
  | .explicit => listedOperation s
  | .prompt =>
    match nextHandler s with
    | some x => .ok (x.handler, s)
    | none => listedOperation s

end Sys2Proof.Machine
end

