-- ==== Sys2Proof/Machine/Step.lean ====
section
/-! DEFINITION. One step of the machine: exactly one atomic operation (20_memory.md R49). -/

namespace Sys2Proof.Machine

/-- One step: the operation that comes next is performed; where none can, the trace is refused. -/
def step (s : State) : Host.Outcome State Fault Refusal :=
  match nextOperation s with
  | .ok (i, t) => exec i t
  | .error r => .refused r

/-- The state with a row's word, whose bits are `w`, listed as the next operation. The machine has no program counter
(10_state.md R12): the word is put before the remaining trace, cut to its own length, and the mode is explicit so that the
very next step performs it. Log entry 5. -/
def State.withFetchWord (s : State) (nbits w : Nat) : State :=
  { s with trace := firstWord (tableBytes nbits w) ++ s.trace, mode := .explicit }

end Sys2Proof.Machine
end

