-- ==== Sys2Proof/Machine/Pseudo.lean ====
section
/-! DEFINITION. The pseudo-operations of 30_encoding.md R67 that the host issues: each is a list of operations and has no
encoding of its own. `WINDOW.REARM` is not issued by the host; it is `windowRearm` of Machine/Ops.lean. -/

namespace Sys2Proof.Machine

/-- The pseudo-operations the host issues (30_encoding.md R67). -/
inductive Pseudo
  /-- `READ.PROTOCOL`: the critical-section read of PulseCount. -/
  | readProtocol
  /-- `ACQ.ARM len, div`: from any stopped state to a running acquisition. -/
  | acqArm (len : Word) (div : Half)
  /-- `ACQ.STOP`: the interface `stop()`. -/
  | acqStop
  deriving DecidableEq, Repr

/-- The first four operations of `ACQ.ARM`, up to the configuration (70_reset_and_hazards.md R203, lines 1 to 4). -/
def armConfigure (len : Word) (div : Half) : List Instr := [.irqResume 0b111, .wcStop, .npcStop, .wcConfigure len div]

/-- The last five operations of `ACQ.ARM` (70_reset_and_hazards.md R203, lines 5 to 9). -/
def armStart : List Instr := [.wcReset, .npcReset, .msmReset, .npcStart, .wcStart]

/-- The operations a pseudo-operation stands for (30_encoding.md R67). "If `WC.CONFIGURE` inside `ACQ.ARM` returns
`Err(NotDivisible)` the host stops the expansion there"; whether it does is a matter of the operands alone. Log entry 16. -/
def Pseudo.expand : Pseudo → List Instr
  | .readProtocol => [.irqDefer 0b001, .npcRdlo, .npcRdhi, .irqResume 0b001]
  | .acqArm len div => armConfigure len div ++ (if notDivisible len div then [] else armStart)
  | .acqStop => [.wcStop, .npcStop]

/-- The bytes of the written expansion of a pseudo-operation. -/
def Pseudo.encode (p : Pseudo) : List Byte := encodeTrace p.expand

/-- The result of `READ.PROTOCOL` from the results of its two reads: `combine(low, high)` (30_encoding.md R67). -/
def readProtocolResult : Response → Response → Option Word
  | .u16 low, .u8 high => some (combine low high)
  | _, _ => none

end Sys2Proof.Machine
end

