-- ==== Sys2Proof/Machine/Responses.lean ====
section
/-! DEFINITION. The byte encoding of results (30_encoding.md R68): a tag byte, then the payload, little-endian. -/

namespace Sys2Proof.Machine

/-- The bytes of a result (30_encoding.md R68). -/
def Response.bytes : Response → List Byte
  | .ok => [0x00]
  | .errNotDivisible => [0x01]
  | .noResult => [0x02]
  | .u8 v => [0x10, v]
  | .u16 v => 0x11 :: le16 v
  | .u32 v => 0x12 :: le32 v
  | .measurement timestamp value negCounts => 0x13 :: (le32 timestamp ++ le32 value ++ le32 negCounts)
  | .errors count flags => 0x14 :: (le32 count ++ [flags])

/-- The bytes the operation just performed put on the result port; none for an event or a handler step (R68). -/
def responseBytes (s : State) : List Byte :=
  match s.resp with
  | some r => r.bytes
  | none => []

end Sys2Proof.Machine
end

