-- ==== Sys2Proof/Safety.lean ====
section
/-! DEFINITION. What a safe run is, in the terms the statements use: the invariants of 10_state.md R35, the read/write matrix of
R34, which data is live, runs of operations, and counts of pulses. -/

namespace Sys2Proof.Machine

/-- The invariants of 10_state.md R35. Its item 5, `status ∈ {0, 1, 2, 3}`, holds by the type of `status`. -/
structure Inv (s : State) : Prop where
  /-- Item 1: unconfigured, or a window of 1 to 65536 whole sub-cycles. -/
  config : (s.winDiv = 0 ∧ s.winLen = 0) ∨
    (s.winDiv ≠ 0 ∧ s.winLen ≠ 0 ∧ s.winLen.toNat % s.winDiv.toNat = 0 ∧ 1 ≤ subPerWin s ∧ subPerWin s ≤ 65536)
  /-- Item 2: a running window counter is configured. -/
  configured : s.wcRun = true → s.winDiv ≠ 0
  /-- Item 3: a running stage stands below its modulus. -/
  stages : s.wcRun = true → s.wcLow.toNat < s.winDiv.toNat ∧ s.wcHigh.toNat < subPerWin s
  /-- Item 4: the blanker's output and count agree, and the count is bounded. -/
  blanker : (s.blankOut = false ↔ s.blankCnt = 0) ∧ s.blankCnt.toNat ≤ Config.blankLen.toNat
  /-- Item 6: the error flags and the error count agree. -/
  errors : s.errFlags = 0 ↔ s.errCount = 0

/-- The 22 elements of 10_state.md R10. -/
inductive Element
  | winLen | winDiv | wcLow | wcHigh | wcRun | bndPending | blankOut | blankCnt | polQ | pcLow | pcHigh
  | pcRun | ovfPending | status | baseline | negCounts | value | smpData | smpPending | errCount | errFlags | irqMask
  deriving DecidableEq, Repr

/-- The element holds the same value in both states. -/
def Element.same (e : Element) (s t : State) : Prop :=
  match e with
  | .winLen => s.winLen = t.winLen
  | .winDiv => s.winDiv = t.winDiv
  | .wcLow => s.wcLow = t.wcLow
  | .wcHigh => s.wcHigh = t.wcHigh
  | .wcRun => s.wcRun = t.wcRun
  | .bndPending => s.bndPending = t.bndPending
  | .blankOut => s.blankOut = t.blankOut
  | .blankCnt => s.blankCnt = t.blankCnt
  | .polQ => s.polQ = t.polQ
  | .pcLow => s.pcLow = t.pcLow
  | .pcHigh => s.pcHigh = t.pcHigh
  | .pcRun => s.pcRun = t.pcRun
  | .ovfPending => s.ovfPending = t.ovfPending
  | .status => s.status = t.status
  | .baseline => s.baseline = t.baseline
  | .negCounts => s.negCounts = t.negCounts
  | .value => s.value = t.value
  | .smpData => s.smpData = t.smpData
  | .smpPending => s.smpPending = t.smpPending
  | .errCount => s.errCount = t.errCount
  | .errFlags => s.errFlags = t.errFlags
  | .irqMask => s.irqMask = t.irqMask

/-- The operation may write the element: the entries `w` and `rw` of 10_state.md R34; `SYS.RESET` writes every one. -/
def Element.mayWrite (e : Element) (i : Instr) : Bool :=
  match i with
  | .sysReset => true
  | .evTick _ =>
    [.wcLow, .wcHigh, .bndPending, .blankOut, .blankCnt, .polQ, .pcLow, .ovfPending].contains e
  | .evSample _ => [.smpData, .smpPending].contains e
  | .isrOvf => [.pcHigh, .ovfPending].contains e
  | .isrBnd =>
    [.wcLow, .wcHigh, .wcRun, .bndPending, .pcLow, .pcHigh, .pcRun, .status, .negCounts, .errCount, .errFlags].contains e
  | .isrSmp => [.status, .baseline, .value, .smpPending, .errCount, .errFlags].contains e
  | .wcConfigure _ _ => [.winLen, .winDiv].contains e
  | .wcStart => e == .wcRun
  | .wcStop => e == .wcRun
  | .wcReset => [.wcLow, .wcHigh, .bndPending].contains e
  | .npcReset => [.pcLow, .pcHigh].contains e
  | .npcStart => e == .pcRun
  | .npcStop => e == .pcRun
  | .npcRead => false
  | .npcRdlo => false
  | .npcRdhi => false
  | .msmReset => e == .status
  | .msmStatus => false
  | .msmTake _ => e == .status
  | .msmErrors => false
  | .pack _ _ _ _ => false
  | .irqDefer _ => e == .irqMask
  | .irqResume _ => e == .irqMask

/-- What the dispatch rule reads before a handler step or a host operation: the pending flags and `irq_mask`
(10_state.md R34, last sentences). -/
def Element.readByDispatch (e : Element) : Bool := [.ovfPending, .bndPending, .smpPending, .irqMask].contains e

/-- The operation may read the element: the entries `r` and `rw` of 10_state.md R34, and what dispatch reads. -/
def Element.mayRead (e : Element) (i : Instr) : Bool :=
  match i with
  | .sysReset => false
  | .evTick _ =>
    [.winLen, .winDiv, .wcLow, .wcHigh, .wcRun, .blankOut, .blankCnt, .pcLow, .pcRun].contains e
  | .evSample _ => false
  | .isrOvf => e.readByDispatch || e == .pcHigh
  | .isrBnd => e.readByDispatch || [.wcRun, .pcLow, .pcHigh, .pcRun, .status, .errCount, .errFlags].contains e
  | .isrSmp => e.readByDispatch || [.status, .baseline, .smpData, .errCount, .errFlags].contains e
  | .wcConfigure _ _ => e.readByDispatch || e == .wcRun
  | .wcStart => e.readByDispatch || [.winLen, .winDiv, .wcLow, .wcHigh, .wcRun].contains e
  | .wcStop => e.readByDispatch
  | .wcReset => e.readByDispatch || e == .wcRun
  | .npcReset => e.readByDispatch || e == .pcRun
  | .npcStart => e.readByDispatch
  | .npcStop => e.readByDispatch
  | .npcRead => e.readByDispatch || [.pcLow, .pcHigh].contains e
  | .npcRdlo => e.readByDispatch || e == .pcLow
  | .npcRdhi => e.readByDispatch || e == .pcHigh
  | .msmReset => e.readByDispatch
  | .msmStatus => e.readByDispatch || e == .status
  | .msmTake _ => e.readByDispatch || [.status, .negCounts, .value].contains e
  | .msmErrors => e.readByDispatch || [.errCount, .errFlags].contains e
  | .pack _ _ _ _ => e.readByDispatch
  | .irqDefer _ => e.readByDispatch
  | .irqResume _ => e.readByDispatch

/-- The two states agree but for the element: every other element and every field of the model's own. -/
def AgreeBut (e : Element) (s t : State) : Prop :=
  (∀ e' : Element, e' ≠ e → e'.same s t) ∧ s.trace = t.trace ∧ s.mode = t.mode ∧ s.resp = t.resp ∧ s.draws = t.draws

/-- The two states agree on everything an operation can still read: they may differ in `baseline`, `neg_counts`, `value`
and `smp_data` where 10_state.md R23 to R26 say that the element is written before it is read, and in the count of draws. -/
structure LiveEq (s t : State) : Prop where
  /-- Everything else is equal. -/
  rest : t = { s with baseline := t.baseline, negCounts := t.negCounts, value := t.value, smpData := t.smpData,
                      draws := t.draws }
  /-- `baseline` is live once a sample has been stored and until it is replaced (R23). -/
  baseline : s.status = .prevCharge ∨ s.status = .negativeCounts → s.baseline = t.baseline
  /-- `neg_counts` is live from its capture to the hand-off (R24). -/
  negCounts : s.status = .negativeCounts ∨ s.status = .resultAvail → s.negCounts = t.negCounts
  /-- `value` is live while a result is available (R25). -/
  value : s.status = .resultAvail → s.value = t.value
  /-- `smp_data` is live while its event is pending (R26). -/
  smpData : s.smpPending = true → s.smpData = t.smpData

/-- The pulses counted since the counter was last zeroed: PulseCount, and the wraparound not yet handled
(42_pulse_counter.md R105: with `ovf_pending = 1` a read is exactly 65536 below the true count). -/
def pulseTotal (s : State) : Nat := pulseCount s + (if s.ovfPending then 65536 else 0)

/-- The clock events of a list whose comparator operand is at `ACTIVE_LEVEL` (41_polarity_synchronizer.md R92). -/
def activeTicks (cs : List Bool) : Nat := cs.count Config.activeLevel

/-- One operation after another, stopping at the first fault or refusal. -/
def execAll : List Instr → State → Host.Outcome State Fault Refusal
  | [], s => .next s
  | i :: is, s =>
    match exec i s with
    | .next t => execAll is t
    | .fault r => .fault r
    | .refused r => .refused r

/-- `k` steps of the machine, stopping at the first fault or refusal. -/
def runSteps : Nat → State → Host.Outcome State Fault Refusal
  | 0, s => .next s
  | k + 1, s =>
    match step s with
    | .next t => runSteps k t
    | .fault r => .fault r
    | .refused r => .refused r

/-- The clock events with these comparator operands. -/
def ticks (cs : List Bool) : List Instr := cs.map .evTick

/-- The main loop may act: no source is enabled (60_exceptions.md R178). -/
abbrev hostMayAct (s : State) : Prop := nextHandler s = none

/-- No source has its pending flag set. -/
abbrev nothingPending (s : State) : Prop :=
  s.ovfPending = false ∧ s.bndPending = false ∧ s.smpPending = false

/-- The handler steps of the sources whose pending flag is set, in priority order: what runs once no source is deferred
(70_reset_and_hazards.md R203, step 1). -/
def staleHandlers (s : State) : List Instr := (irqPriority.filter (pending · s)).map Source.handler

/-- The next counted event completes the window: both stages stand at their compare values (40_wide_event_counter.md R81). -/
abbrev atLastEvent (s : State) : Prop :=
  s.wcLow.toNat + 1 = s.winDiv.toNat ∧ s.wcHigh.toNat + 1 = s.winLen.toNat / s.winDiv.toNat

/-- PromptIRQ along a run of operations: no environment event finds an enabled source (60_exceptions.md R181). -/
def promptAlong : List Instr → State → Prop
  | [], _ => True
  | i :: is, s =>
    (i.kind = .event → nextHandler s = none) ∧
      match exec i s with
      | .next t => promptAlong is t
      | .fault _ => True
      | .refused _ => True

end Sys2Proof.Machine
end

