-- ==== Sys2Proof/Certificates/Slice0/Obligations.lean ====
section
/-! DEFINITION. The statements for the provers, each a claim about the machine taken from the spec's numbered rules. -/

open Sys2Proof Sys2Proof.Machine

/-! ### Encoding -/

/-- Decoding the word of any operation, whatever follows it, gives that operation and what follows
(30_encoding.md R61 to R64). -/
def Obligations.DecodeOfEncodeIsTheOperation : Prop :=
  ∀ (i : Instr) (rest : List Byte), decode (encode i ++ rest) = .ok (i, rest)

/-- An encoded trace, the concatenation of its words, decodes to its operations (30_encoding.md R61). -/
def Obligations.EncodedTraceDecodesToItsOperations : Prop :=
  ∀ is : List Instr, decodeTrace (encodeTrace is) = .ok is

/-- Each word has one meaning: the bytes the decoder takes are the encoding of the operation it gives
(30_encoding.md R61 to R63). -/
def Obligations.DecodedBytesAreTheEncoding : Prop :=
  ∀ (bs rest : List Byte) (i : Instr), decode bs = .ok (i, rest) → bs = encode i ++ rest

/-- A word cut short by the end of the trace is invalid (30_encoding.md R65). -/
def Obligations.WordCutShortIsInvalid : Prop :=
  ∀ (i : Instr) (k : Nat), 0 < k → k < (encode i).length →
    decode ((encode i).take k) = .error (.truncatedWord ((encode i).headD 0))

/-- The values of byte 0 that are illegal are those 30_encoding.md R65 lists, and no other. -/
def Obligations.IllegalFirstBytes : Prop :=
  ∀ (b : Byte) (rest : List Byte), decode (b :: rest) = .error (.illegalByte0 b) ↔
    (b = 0x01 ∨ (0x05 ≤ b ∧ b ≤ 0x07) ∨ (0x0B ≤ b ∧ b ≤ 0x0F) ∨ (0x14 ≤ b ∧ b ≤ 0x1F) ∨ (0x26 ≤ b ∧ b ≤ 0x2F) ∨
      (0x34 ≤ b ∧ b ≤ 0x3F) ∨ (0x41 ≤ b ∧ b ≤ 0x4F) ∨ 0x60 ≤ b)

/-- The worked encodings of 30_encoding.md R70, each a word written out, decode to the operations it names. -/
def Obligations.WorkedEncodingsDecode : Prop :=
  decode [0x00] = .ok (.sysReset, []) ∧
  decode [0x03] = .ok (.evTick true, []) ∧
  decode [0x02] = .ok (.evTick false, []) ∧
  decode [0x04, 0xD8, 0xFF] = .ok (.evSample (BitVec.ofInt 16 (-40)), []) ∧
  decode [0x04, 0x64, 0x00] = .ok (.evSample 100, []) ∧
  decode [0x32, 0xD2, 0x04, 0x00, 0x00] = .ok (.msmTake 1234, []) ∧
  decode [0x10, 0xDC, 0x05, 0x00, 0x00, 0x32, 0x00] = .ok (.wcConfigure 1500 50, []) ∧
  decode [0x40, 0xF4, 0x01, 0x00, 0x00, 0xDC, 0x05, 0xE8, 0x03, 0x00, 0x00, 0xB8, 0x0B] =
    .ok (.pack 500 1500 1000 3000, []) ∧
  decode [0x51] = .ok (.irqDefer 0b001, []) ∧
  decode [0x5F] = .ok (.irqResume 0b111, [])

/-- The bytes of each result are its tag and its payload, the less significant bytes first, and determine the result; a
host operation that completes returns one result, an event or a handler step none (30_encoding.md R68). -/
def Obligations.ResponseBytesDetermineTheResult : Prop :=
  Response.bytes .ok = [0x00] ∧ Response.bytes .errNotDivisible = [0x01] ∧ Response.bytes .noResult = [0x02] ∧
  (∀ v : Byte, Response.bytes (.u8 v) = [0x10, v]) ∧
  (∀ v0 v1 : Byte, Response.bytes (.u16 (v1 ++ v0)) = [0x11, v0, v1]) ∧
  (∀ v0 v1 v2 v3 : Byte, Response.bytes (.u32 (v3 ++ v2 ++ v1 ++ v0)) = [0x12, v0, v1, v2, v3]) ∧
  (∀ t0 t1 t2 t3 v0 v1 v2 v3 n0 n1 n2 n3 : Byte,
    Response.bytes (.measurement (t3 ++ t2 ++ t1 ++ t0) (v3 ++ v2 ++ v1 ++ v0) (n3 ++ n2 ++ n1 ++ n0)) =
      [0x13, t0, t1, t2, t3, v0, v1, v2, v3, n0, n1, n2, n3]) ∧
  (∀ c0 c1 c2 c3 flags : Byte,
    Response.bytes (.errors (c3 ++ c2 ++ c1 ++ c0) flags) = [0x14, c0, c1, c2, c3, flags]) ∧
  (∀ r q : Response, r.bytes = q.bytes → r = q) ∧
  (∀ (i : Instr) (s t : State), exec i s = .next t →
    (i.kind = .host → ∃ r, t.resp = some r ∧ responseBytes t = r.bytes) ∧
    (i.kind ≠ .host → t.resp = none ∧ responseBytes t = [])) ∧
  ∀ s : State, (s.resp = none → responseBytes s = []) ∧ ∀ r, s.resp = some r → responseBytes s = r.bytes

/-! ### The step and the dispatch of handlers -/

/-- In explicit mode a step performs the operation listed next, with its word taken off the trace
(60_exceptions.md R182). -/
def Obligations.ExplicitStepPerformsTheListedOperation : Prop :=
  ∀ (s : State) (i : Instr) (rest : List Byte),
    s.mode = .explicit → decode s.trace = .ok (i, rest) → step s = exec i { s with trace := rest }

/-- In prompt mode a step performs the enabled handler of highest priority, taking nothing off the trace; where none is
enabled, the event or host operation listed next (60_exceptions.md R182). That a handler enabled before the first listed
operation goes first too is the model's reading (log entry 4); that a listed handler word is refused is the model's
(log entry 15): R182 says only that such a list is not a prompt-mode trace. -/
def Obligations.PromptStepServesHandlersFirst : Prop :=
  ∀ s : State, s.mode = .prompt →
    (∀ x, nextHandler s = some x → step s = exec x.handler s) ∧
    (∀ (i : Instr) (rest : List Byte), nextHandler s = none → decode s.trace = .ok (i, rest) →
      (i.kind ≠ .handlerStep → step s = exec i { s with trace := rest }) ∧
      (i.kind = .handlerStep → step s = .refused .handlerInPromptTrace))

/-- A trace is refused at an illegal or truncated word, and where it is used up, in explicit mode, and in prompt mode once
no handler is enabled (30_encoding.md R65; that an empty trace is a refusal of its own is the model's choice, log
entry 3). -/
def Obligations.InvalidTraceIsRefused : Prop :=
  ∀ s : State, s.mode = .explicit ∨ s.mode = .prompt ∧ nextHandler s = none →
    (s.trace = [] → step s = .refused .traceExhausted) ∧
    (∀ b, decode s.trace = .error (.illegalByte0 b) → step s = .refused (.illegalByte0 b)) ∧
    (∀ b, decode s.trace = .error (.truncatedWord b) → step s = .refused (.truncatedWord b))

/-- A row's word of the opcode table, placed as the next operation, is performed by the very next step. The placing is the
model's (log entry 5). -/
def Obligations.TableWordIsPerformedNext : Prop :=
  ∀ (s : State) (nbits w : Nat) (i : Instr), decodeTableWord nbits w = some i →
    step (s.withFetchWord nbits w) = exec i { s with mode := .explicit }

/-- The handler that comes next is the enabled one of highest priority: OVF, then BND, then SMP (60_exceptions.md R178).
-/
def Obligations.NextHandlerIsTheEnabledOneOfHighestPriority : Prop :=
  ∀ (s : State) (x : Source), nextHandler s = some x ↔
    enabled x s = true ∧ ∀ y, enabled y s = true → sourceNumber x ≤ sourceNumber y

/-- A handler step cannot occur unless its source is enabled and no source of higher priority is (60_exceptions.md R178,
R182). -/
def Obligations.HandlerStepNeedsItsTurn : Prop :=
  ∀ (x : Source) (s : State),
    (enabled x s = false → exec x.handler s = .refused .handlerNotEnabled) ∧
    (∀ y, enabled x s = true → enabled y s = true → sourceNumber y < sourceNumber x →
      exec x.handler s = .refused .handlerOutranked)

/-- "No host operation can occur while `E` is not empty" (60_exceptions.md R178). -/
def Obligations.HostOperationWaitsForHandlers : Prop :=
  ∀ (i : Instr) (x : Source) (s : State), i.kind = .host → enabled x s = true →
    exec i s = .refused .hostWhileHandlerEnabled

/-- An environment event can occur in every state, whatever is pending (60_exceptions.md R178). -/
def Obligations.EnvironmentEventsAreAlwaysPossible : Prop :=
  ∀ (i : Instr) (s : State), i.kind = .event → ∃ t, exec i s = .next t

/-- "A prompt-mode trace and the explicit-mode trace obtained by inserting the handler steps the model ran give the same
states" (60_exceptions.md R182): for every prompt run of `k` steps there are the `k` operations it performed; without
the handler steps among them they are what the prompt trace listed, and listed whole they give the same state in
explicit mode. Where the run starts with a source enabled, that its handler is run first is the model's reading (log
entry 4). -/
def Obligations.PromptRunIsAnExplicitRun : Prop :=
  ∀ (k : Nat) (s t : State), s.mode = .prompt → runSteps k s = .next t →
    ∃ performed : List Instr, performed.length = k ∧
      s.trace = encodeTrace (performed.filter TraceMode.prompt.admits) ++ t.trace ∧
      runSteps k { s with mode := .explicit, trace := encodeTrace performed ++ t.trace } =
        .next { t with mode := .explicit }

/-! ### Invariants, and what each operation reads and writes -/

/-- The state after reset satisfies the invariants of 10_state.md R35. -/
def Obligations.ResetSatisfiesTheInvariants : Prop := Inv State.reset

/-- Every step from a state that satisfies the invariants of 10_state.md R35 leads to one that does. -/
def Obligations.EveryStepKeepsTheInvariants : Prop :=
  ∀ s t : State, Inv s → step s = .next t → Inv t

/-- The reset column of 10_state.md R10, where the spec gives a value. -/
def Obligations.ResetColumnHoldsAtReset : Prop :=
  let s := State.reset
  (s.winLen = 0 ∧ s.winDiv = 0 ∧ s.wcLow = 0 ∧ s.wcHigh = 0 ∧ s.wcRun = false ∧ s.bndPending = false) ∧
  (s.blankOut = false ∧ s.blankCnt = 0 ∧ s.polQ = false) ∧
  (s.pcLow = 0 ∧ s.pcHigh = 0 ∧ s.pcRun = false ∧ s.ovfPending = false) ∧
  (s.status = .clean ∧ s.smpPending = false ∧ s.errCount = 0 ∧ s.errFlags = 0b000 ∧ s.irqMask = 0b111)

/-- An operation that completes changes only the elements 10_state.md R34 lists as written by it. -/
def Obligations.OnlyListedOperationsWriteAnElement : Prop :=
  ∀ (e : Element) (i : Instr) (s t : State), exec i s = .next t → e.mayWrite i = false → e.same s t

/-- What an operation does, and whether it is refused, depends only on the elements 10_state.md R34 lists as read by it:
two states that differ in another element alone lead to states that differ at most there. -/
def Obligations.OnlyListedOperationsReadAnElement : Prop :=
  ∀ (e : Element) (i : Instr) (s t : State), e.mayRead i = false → AgreeBut e s t →
    (∀ s', exec i s = .next s' → ∃ t', exec i t = .next t' ∧ AgreeBut e s' t') ∧
    (∀ r, exec i s = .refused r → exec i t = .refused r)

/-- "no observable result depends on the draw" (46_system.md R162, 93_implementation_defined.md U10): states that differ
only in data written before it is read step alike, with the same result and the same refusals. -/
def Obligations.UnspecifiedDataIsNeverObserved : Prop :=
  ∀ s t : State, LiveEq s t →
    (∀ s', step s = .next s' → ∃ t', step t = .next t' ∧ LiveEq s' t' ∧ s'.resp = t'.resp) ∧
    (∀ r, step s = .refused r → step t = .refused r)

/-- `status` never moves except along the arrows of 44_measurement_sm.md R133, and to CLEAN by `SYS.RESET`. -/
def Obligations.StatusMovesOnlyAlongTheTable : Prop :=
  ∀ (i : Instr) (s t : State), exec i s = .next t → s.status ≠ t.status →
    (i = .isrSmp ∧ s.status = .clean ∧ t.status = .prevCharge) ∨
    (i = .isrBnd ∧ s.status = .prevCharge ∧ t.status = .negativeCounts) ∨
    (i = .isrSmp ∧ s.status = .negativeCounts ∧ t.status = .resultAvail) ∨
    ((∃ now, i = .msmTake now) ∧ s.status = .resultAvail ∧ t.status = .clean) ∨
    ((i = .msmReset ∨ i = .sysReset) ∧ t.status = .clean)

/-- The error record only grows, by at most one error an operation, unless `SYS.RESET` clears it: the count never
decreases and the flags are sticky (10_state.md R27, 44_measurement_sm.md R140). -/
def Obligations.ErrorRecordOnlyGrows : Prop :=
  ∀ (i : Instr) (s t : State), exec i s = .next t → i ≠ .sysReset →
    s.errCount.toNat ≤ t.errCount.toNat ∧ t.errCount.toNat ≤ s.errCount.toNat + 1 ∧
    s.errFlags &&& t.errFlags = s.errFlags

/-- `pc_high` is incremented only by `ISR.OVF` and set to zero only by `NPC.RESET`, `ISR.BND` and `SYS.RESET`
(42_pulse_counter.md R108). -/
def Obligations.HighByteIsOnlyIncrementedOrZeroed : Prop :=
  ∀ (i : Instr) (s t : State), exec i s = .next t → s.pcHigh ≠ t.pcHigh →
    (i = .isrOvf ∧ t.pcHigh.toNat = s.pcHigh.toNat + 1) ∨
    ((i = .npcReset ∨ i = .isrBnd ∨ i = .sysReset) ∧ t.pcHigh = 0)

/-! ### Environment events -/

/-- `SYS.RESET` completes in every state with every element at its reset value; of the four elements with no reset value
nothing is said (46_system.md R162). The trace and its mode, which are not the block's, stay. -/
def Obligations.SysResetGivesTheResetColumn : Prop :=
  ∀ s : State, ∃ t : State, exec .sysReset s = .next t ∧
    (t.winLen = 0 ∧ t.winDiv = 0 ∧ t.wcLow = 0 ∧ t.wcHigh = 0 ∧ t.wcRun = false ∧ t.bndPending = false) ∧
    (t.blankOut = false ∧ t.blankCnt = 0 ∧ t.polQ = false) ∧
    (t.pcLow = 0 ∧ t.pcHigh = 0 ∧ t.pcRun = false ∧ t.ovfPending = false) ∧
    (t.status = .clean ∧ t.smpPending = false ∧ t.errCount = 0 ∧ t.errFlags = 0b000 ∧ t.irqMask = 0b111) ∧
    (t.trace = s.trace ∧ t.mode = s.mode ∧ t.resp = none)

/-- `EV.TICK c` completes in every state, samples the comparator, and changes nothing but the elements
41_polarity_synchronizer.md R90 lists: the comparator's value, the blanker, `pc_low` with its pending flag, and the two
window stages with theirs. -/
def Obligations.EvTickSamplesAndKeepsTheRest : Prop :=
  ∀ (c : Bool) (s : State), ∃ t : State, exec (.evTick c) s = .next t ∧ t.polQ = c ∧ t.resp = none ∧
    t = { s with polQ := t.polQ, blankCnt := t.blankCnt, blankOut := t.blankOut, pcLow := t.pcLow,
                 ovfPending := t.ovfPending, wcLow := t.wcLow, wcHigh := t.wcHigh, bndPending := t.bndPending,
                 resp := none }

/-- The gated pulse of a clock event is counted when counting is enabled, `pc_low` wrapping from `0xFFFF` to 0 with OVF
made pending; without a pulse or with counting stopped nothing of the counter changes (42_pulse_counter.md R100). -/
def Obligations.EvTickCountsAGatedPulse : Prop :=
  ∀ (c : Bool) (s : State), ∃ t : State, exec (.evTick c) s = .next t ∧ t.pcHigh = s.pcHigh ∧
    (s.pcRun = true → c = Config.activeLevel →
      (s.pcLow ≠ 0xFFFF → t.pcLow.toNat = s.pcLow.toNat + 1 ∧ t.ovfPending = s.ovfPending) ∧
      (s.pcLow = 0xFFFF → t.pcLow = 0 ∧ t.ovfPending = true)) ∧
    (s.pcRun = false ∨ c ≠ Config.activeLevel → t.pcLow = s.pcLow ∧ t.ovfPending = s.ovfPending)

/-- A clock event moves a running window counter one position on, back to 0 at the window length, and makes BND pending
exactly there; a stopped one is left as it is (40_wide_event_counter.md R81, R82). -/
def Obligations.EvTickAdvancesThePosition : Prop :=
  ∀ (c : Bool) (s : State), Inv s → ∃ t : State, exec (.evTick c) s = .next t ∧
    (s.wcRun = true → position t = (position s + 1) % s.winLen.toNat ∧
      (t.bndPending = true ↔ s.bndPending = true ∨ position s + 1 = s.winLen.toNat)) ∧
    (s.wcRun = false → t.wcLow = s.wcLow ∧ t.wcHigh = s.wcHigh ∧ t.bndPending = s.bndPending)

/-- The event that completes the window asserts the blanker for `BLANK_LEN` events, also while it is asserted; every other
event counts an asserted blanker down and deasserts it at 0 (40_wide_event_counter.md R84, R85). -/
def Obligations.EvTickDrivesTheBlanker : Prop :=
  ∀ (c : Bool) (s : State), ∃ t : State, exec (.evTick c) s = .next t ∧
    (s.wcRun = true → atLastEvent s → t.blankOut = true ∧ t.blankCnt = Config.blankLen) ∧
    (s.wcRun = false ∨ ¬ atLastEvent s →
      (s.blankOut = true → t.blankCnt = s.blankCnt - 1 ∧ (t.blankOut = false ↔ t.blankCnt = 0)) ∧
      (s.blankOut = false → t.blankCnt = s.blankCnt ∧ t.blankOut = false))

/-- Over any number of clock events a running window counter stands at the number of events modulo the window length, with
no drift, and BND has been raised exactly if the window was completed (40_wide_event_counter.md R82, R87). -/
def Obligations.TicksGiveThePositionModuloTheLength : Prop :=
  ∀ (cs : List Bool) (s : State), Inv s → s.wcRun = true → ∃ t : State,
    execAll (ticks cs) s = .next t ∧
    position t = (position s + cs.length) % s.winLen.toNat ∧
    (t.bndPending = true ↔ s.bndPending = true ∨ s.winLen.toNat ≤ position s + cs.length)

/-- With no boundary intervening, the blanker is asserted for exactly as many clock events as its count says, and its
count goes down to 0 with them (40_wide_event_counter.md R85). -/
def Obligations.BlankerStaysAssertedForItsCount : Prop :=
  ∀ (cs : List Bool) (s : State), Inv s → (s.wcRun = true → position s + cs.length < s.winLen.toNat) →
    ∃ t : State, execAll (ticks cs) s = .next t ∧
      t.blankCnt.toNat = s.blankCnt.toNat - cs.length ∧ (t.blankOut = true ↔ cs.length < s.blankCnt.toNat)

/-- `EV.SAMPLE` latches the reading and makes SMP pending, in every state and whatever was pending
(44_measurement_sm.md R130). -/
def Obligations.EvSampleLatchesTheReading : Prop :=
  ∀ (reading : Half), encode (.evSample reading) = 0x04 :: le16 reading ∧ Instr.kind (.evSample reading) = .event ∧
    ∀ s : State, exec (.evSample reading) s = .next { s with smpData := reading, smpPending := true, resp := none }

/-! ### Handler steps -/

/-- `ISR.OVF`, enabled iff OVF is pending and not deferred, increments `pc_high` and acknowledges the overflow, nothing
else, so that no counted pulse is lost or added; at `pc_high = 0xFF` it is refused (42_pulse_counter.md R103). -/
def Obligations.IsrOvfIncrementsTheHighByte : Prop :=
  encode .isrOvf = [0x08] ∧ Instr.kind .isrOvf = .handlerStep ∧
  ∀ s : State,
    (s.ovfPending = false ∨ s.irqMask.getLsbD 0 = true → exec .isrOvf s = .refused .handlerNotEnabled) ∧
    (s.ovfPending = true → s.irqMask.getLsbD 0 = false →
      (s.pcHigh ≠ 0xFF → ∃ t : State, exec .isrOvf s = .next t ∧
        t = { s with pcHigh := s.pcHigh + 1, ovfPending := false, resp := none } ∧
        t.pcHigh.toNat = s.pcHigh.toNat + 1 ∧ pulseTotal t = pulseTotal s) ∧
      (s.pcHigh = 0xFF → exec .isrOvf s = .refused .highByteOverflow))

/-- In prompt mode, with OVF not deferred and no boundary handled in between (the window counter stopped, BND deferred, or
the window longer than the run), `NPC.READ` after any clock events returns the count from before plus exactly the events
sampled at `ACTIVE_LEVEL`, over any number of wraparounds (42_pulse_counter.md R108, 41_polarity_synchronizer.md R92). -/
def Obligations.PromptReadCountsEveryActiveTick : Prop :=
  ∀ (cs : List Bool) (s : State), s.mode = .prompt → hostMayAct s → s.irqMask.getLsbD 0 = false → s.pcRun = true →
    (s.wcRun = true → s.irqMask.getLsbD 1 = true ∨ Inv s ∧ position s + cs.length < s.winLen.toNat) →
    pulseCount s + activeTicks cs < 2 ^ 24 → s.trace = encodeTrace (ticks cs ++ [.npcRead]) →
    ∃ (k : Nat) (t : State) (v : Word), runSteps k s = .next t ∧ t.trace = [] ∧ t.resp = some (.u32 v) ∧
      v.toNat = pulseCount s + activeTicks cs

/-- `ISR.SMP`, enabled iff SMP is pending and not deferred and neither other source goes before it, follows
44_measurement_sm.md R131: CLEAN stores the sample as baseline, NEGATIVE_COUNTS takes the exact difference and stores
the new baseline, the other two states record an error, the count one up and saturating, its flag set, and keep what is
stored (R134). -/
def Obligations.IsrSmpFollowsTheTable : Prop :=
  encode .isrSmp = [0x0A] ∧ Instr.kind .isrSmp = .handlerStep ∧
  ∀ s : State,
    (s.smpPending = false ∨ s.irqMask.getLsbD 2 = true → exec .isrSmp s = .refused .handlerNotEnabled) ∧
    (nextHandler s = some .smp ↔ s.smpPending = true ∧ s.irqMask.getLsbD 2 = false ∧
      ¬ (s.ovfPending = true ∧ s.irqMask.getLsbD 0 = false) ∧ ¬ (s.bndPending = true ∧ s.irqMask.getLsbD 1 = false)) ∧
    (nextHandler s = some .smp → s.status = .clean → exec .isrSmp s =
      .next { s with smpPending := false, baseline := s.smpData, status := .prevCharge, resp := none }) ∧
    (nextHandler s = some .smp → s.status = .prevCharge → ∃ t : State, exec .isrSmp s = .next t ∧
      t = { s with smpPending := false, errCount := t.errCount, errFlags := s.errFlags ||| 0b001, resp := none } ∧
      t.errCount.toNat = min (s.errCount.toNat + 1) 0xFFFFFFFF) ∧
    (nextHandler s = some .smp → s.status = .negativeCounts →
      ∃ v : Word, v.toInt = s.smpData.toInt - s.baseline.toInt ∧ exec .isrSmp s =
        .next { s with smpPending := false, value := v, baseline := s.smpData, status := .resultAvail, resp := none }) ∧
    (nextHandler s = some .smp → s.status = .resultAvail → ∃ t : State, exec .isrSmp s = .next t ∧
      t = { s with smpPending := false, errCount := t.errCount, errFlags := s.errFlags ||| 0b100, resp := none } ∧
      t.errCount.toNat = min (s.errCount.toNat + 1) 0xFFFFFFFF)

/-- `ISR.BND`, enabled iff BND is pending and not deferred and no overflow goes before it, follows 44_measurement_sm.md
R132: PREV_CHARGE captures the pulse count, CLEAN ignores the boundary, the other two states record an error, the count
one up and saturating, its flag set (R134); in every state both counters are zeroed, the boundary is acknowledged, and
the run bits are as on entry. -/
def Obligations.IsrBndFollowsTheTable : Prop :=
  encode .isrBnd = [0x09] ∧ Instr.kind .isrBnd = .handlerStep ∧
  (∀ s : State, s.bndPending = false ∨ s.irqMask.getLsbD 1 = true → exec .isrBnd s = .refused .handlerNotEnabled) ∧
  (∀ s : State, nextHandler s = some .bnd ↔ s.bndPending = true ∧ s.irqMask.getLsbD 1 = false ∧
    ¬ (s.ovfPending = true ∧ s.irqMask.getLsbD 0 = false)) ∧
  ∀ s : State, nextHandler s = some .bnd → ∃ t : State, exec .isrBnd s = .next t ∧
    t = { s with pcLow := 0, pcHigh := 0, wcLow := 0, wcHigh := 0, bndPending := false, resp := none,
                 status := t.status, negCounts := t.negCounts, errCount := t.errCount, errFlags := t.errFlags } ∧
    (s.status = .clean →
      t.status = .clean ∧ t.negCounts = s.negCounts ∧ t.errCount = s.errCount ∧ t.errFlags = s.errFlags) ∧
    (s.status = .prevCharge →
      t.status = .negativeCounts ∧ t.negCounts.toNat = s.pcHigh.toNat * 65536 + s.pcLow.toNat ∧
      t.errCount = s.errCount ∧ t.errFlags = s.errFlags) ∧
    (s.status = .negativeCounts →
      t.status = .negativeCounts ∧ t.negCounts = s.negCounts ∧
      t.errCount.toNat = min (s.errCount.toNat + 1) 0xFFFFFFFF ∧ t.errFlags = s.errFlags ||| 0b010) ∧
    (s.status = .resultAvail →
      t.status = .resultAvail ∧ t.negCounts = s.negCounts ∧
      t.errCount.toNat = min (s.errCount.toNat + 1) 0xFFFFFFFF ∧ t.errFlags = s.errFlags ||| 0b100)

/-- An overflow and a boundary pending together are served in that order, so that the capture holds the wraparound too
(60_exceptions.md R183); at `pc_high = 0xFF` the overflow's step is refused first (42_pulse_counter.md R103). The run
starts with sources enabled, and that it serves them before anything listed is the model's reading (log entry 4). -/
def Obligations.OverflowIsServedBeforeTheBoundary : Prop :=
  ∀ s : State, s.mode = .prompt → enabled .ovf s = true → enabled .bnd s = true → s.status = .prevCharge →
    (s.pcHigh ≠ 0xFF →
      ∃ t : State, runSteps 2 s = .next t ∧ t.status = .negativeCounts ∧ t.negCounts.toNat = pulseCount s + 65536 ∧
        pulseTotal t = 0) ∧
    (s.pcHigh = 0xFF → step s = .refused .highByteOverflow)

/-- A boundary and a sample pending together are served in that order, after an overflow pending with them, so that the
sample closes the measurement and no error is recorded (60_exceptions.md R183). The run starts with sources enabled, and
that it serves them before anything listed is the model's reading (log entry 4). -/
def Obligations.BoundaryIsServedBeforeTheSample : Prop :=
  ∀ s : State, s.mode = .prompt → enabled .bnd s = true → enabled .smp s = true → s.status = .prevCharge →
    (enabled .ovf s = true → s.pcHigh ≠ 0xFF) →
    ∃ t : State, runSteps (if enabled .ovf s then 3 else 2) s = .next t ∧ t.status = .resultAvail ∧
      t.errCount = s.errCount ∧ t.errFlags = s.errFlags ∧
      t.negCounts.toNat = pulseCount s + (if enabled .ovf s then 65536 else 0) ∧
      t.value.toInt = s.smpData.toInt - s.baseline.toInt

/-- In prompt mode a window that opens with a baseline stored, both counters at zero and running and nothing deferred or
pending, captures at its boundary exactly the clock events sampled at `ACTIVE_LEVEL`, and the next window opens at zero
(41_polarity_synchronizer.md R92, 40_wide_event_counter.md R87). -/
def Obligations.WindowCapturesItsActiveTicks : Prop :=
  ∀ (cs : List Bool) (rest : List Byte) (s : State), Inv s → s.mode = .prompt → s.irqMask = 0 → nothingPending s →
    s.wcRun = true → s.pcRun = true → position s = 0 → pulseCount s = 0 → s.status = .prevCharge →
    cs.length = s.winLen.toNat → s.winLen.toNat < 2 ^ 24 → s.trace = encodeTrace (ticks cs) ++ rest →
    ∃ (k : Nat) (t : State), runSteps k s = .next t ∧ t.trace = rest ∧ t.status = .negativeCounts ∧
      t.negCounts.toNat = activeTicks cs ∧ position t = 0 ∧ pulseCount t = 0 ∧ nothingPending t ∧
      t.wcRun = true ∧ t.pcRun = true

/-! ### Window Controller -/

/-- `WC.CONFIGURE` with the counter stopped stores a window that the divisor divides, answers `Err(NotDivisible)` with
nothing changed where it does not (a divisor of 0 among them), and is refused for an empty window or more than 65536
sub-cycles; with the counter running it is refused (43_window_controller.md R120). -/
def Obligations.WcConfigureValidatesThenStores : Prop :=
  ∀ (len : Word) (div : Half),
    encode (.wcConfigure len div) = 0x10 :: (le32 len ++ le16 div) ∧ Instr.kind (.wcConfigure len div) = .host ∧
    ∀ s : State, hostMayAct s →
      (s.wcRun = true → exec (.wcConfigure len div) s = .refused .configureWhileRunning) ∧
      (s.wcRun = false → div = 0 ∨ len.toNat % div.toNat ≠ 0 →
        exec (.wcConfigure len div) s = .next { s with resp := some .errNotDivisible }) ∧
      (s.wcRun = false → div ≠ 0 → len.toNat % div.toNat = 0 →
        (len = 0 ∨ 65536 < len.toNat / div.toNat →
          exec (.wcConfigure len div) s = .refused .windowOutOfRange) ∧
        (len ≠ 0 → len.toNat / div.toNat ≤ 65536 →
          exec (.wcConfigure len div) s = .next { s with winLen := len, winDiv := div, resp := some .ok }))

/-- `WC.START` starts a configured counter that stands at zero with no boundary pending, has no effect on a running one,
and is refused from any other stopped state (43_window_controller.md R121). -/
def Obligations.WcStartNeedsAFreshReset : Prop :=
  encode .wcStart = [0x11] ∧ Instr.kind .wcStart = .host ∧
  ∀ s : State, hostMayAct s →
    (s.wcRun = true → exec .wcStart s = .next { s with resp := some .ok }) ∧
    (s.wcRun = false → s.winDiv ≠ 0 ∧ s.wcLow = 0 ∧ s.wcHigh = 0 ∧ s.bndPending = false →
      exec .wcStart s = .next { s with wcRun := true, resp := some .ok }) ∧
    (s.wcRun = false → ¬ (s.winDiv ≠ 0 ∧ s.wcLow = 0 ∧ s.wcHigh = 0 ∧ s.bndPending = false) →
      exec .wcStart s = .refused .startNotFreshlyReset)

/-- `WC.STOP` clears `wc_run` and nothing else: the residue of the stages stays (43_window_controller.md R122). -/
def Obligations.WcStopKeepsTheResidue : Prop :=
  encode .wcStop = [0x12] ∧ Instr.kind .wcStop = .host ∧
  ∀ s : State, hostMayAct s → exec .wcStop s = .next { s with wcRun := false, resp := some .ok }

/-- `WC.RESET` with the counter stopped zeroes both stages and clears the pending boundary, and nothing else; with the
counter running it is refused (43_window_controller.md R123). -/
def Obligations.WcResetClearsStagesAndBoundary : Prop :=
  encode .wcReset = [0x13] ∧ Instr.kind .wcReset = .host ∧
  ∀ s : State, hostMayAct s →
    (s.wcRun = false →
      exec .wcReset s = .next { s with wcLow := 0, wcHigh := 0, bndPending := false, resp := some .ok }) ∧
    (s.wcRun = true → exec .wcReset s = .refused .windowResetWhileRunning)

/-! ### Negative-Pulse Counter -/

/-- `NPC.START` and `NPC.STOP` set and clear `pc_run` and nothing else (42_pulse_counter.md R101, R104). -/
def Obligations.NpcStartAndStopSwitchCounting : Prop :=
  encode .npcStart = [0x21] ∧ Instr.kind .npcStart = .host ∧ encode .npcStop = [0x22] ∧ Instr.kind .npcStop = .host ∧
  ∀ s : State, hostMayAct s →
    exec .npcStart s = .next { s with pcRun := true, resp := some .ok } ∧
    exec .npcStop s = .next { s with pcRun := false, resp := some .ok }

/-- `NPC.RESET` with counting stopped zeroes both parts of the count and leaves a pending overflow pending; while counting
it is refused (42_pulse_counter.md R102). -/
def Obligations.NpcResetClearsBothParts : Prop :=
  encode .npcReset = [0x20] ∧ Instr.kind .npcReset = .host ∧
  ∀ s : State, hostMayAct s →
    (s.pcRun = false → exec .npcReset s = .next { s with pcLow := 0, pcHigh := 0, resp := some .ok }) ∧
    (s.pcRun = true → exec .npcReset s = .refused .pulseResetWhileCounting)

/-- `NPC.READ` returns `pc_high * 65536 + pc_low`, which is below 2^24; it is exact while no overflow is pending, as it is
whenever OVF is not deferred, and exactly 65536 below the true count otherwise; `NPC.RDLO` and `NPC.RDHI` return one part
each; none of them changes anything (42_pulse_counter.md R105, R106, R107). -/
def Obligations.PulseReadsReturnTheirParts : Prop :=
  encode .npcRead = [0x23] ∧ Instr.kind .npcRead = .host ∧ encode .npcRdlo = [0x24] ∧ Instr.kind .npcRdlo = .host ∧
  encode .npcRdhi = [0x25] ∧ Instr.kind .npcRdhi = .host ∧
  ∀ s : State, hostMayAct s →
    (∃ v : Word, v.toNat = s.pcHigh.toNat * 65536 + s.pcLow.toNat ∧ v.toNat < 2 ^ 24 ∧
      (s.irqMask.getLsbD 0 = false → s.ovfPending = false) ∧
      (s.ovfPending = false → v.toNat = pulseTotal s) ∧ (s.ovfPending = true → v.toNat + 65536 = pulseTotal s) ∧
      exec .npcRead s = .next { s with resp := some (.u32 v) }) ∧
    exec .npcRdlo s = .next { s with resp := some (.u16 s.pcLow) } ∧
    exec .npcRdhi s = .next { s with resp := some (.u8 s.pcHigh) }

/-- A low part read before a wraparound and a high part read after its handler recombine to 65536 above the count from
before the wraparound; with OVF deferred, they recombine to exactly that count where the wraparound falls between the
reads, and to 65536 below the true count where it falls before both (20_memory.md R47). No other handler comes between:
the clock event does not complete the window, or BND is deferred. -/
def Obligations.SplitReadIsTornWithoutDeferral : Prop :=
  ∀ s : State, hostMayAct s → s.pcRun = true → s.pcLow = 0xFFFF →
    (s.wcRun = true → atLastEvent s → s.irqMask.getLsbD 1 = true) →
    (s.irqMask.getLsbD 0 = false → s.pcHigh ≠ 0xFF →
      ∃ (s1 s2 s3 s4 : State) (low : Half) (high : Byte),
        exec .npcRdlo s = .next s1 ∧ s1.resp = some (.u16 low) ∧ exec (.evTick Config.activeLevel) s1 = .next s2 ∧
        exec .isrOvf s2 = .next s3 ∧ exec .npcRdhi s3 = .next s4 ∧ s4.resp = some (.u8 high) ∧
        (combine low high).toNat = pulseCount s + 65536) ∧
    (s.irqMask.getLsbD 0 = true →
      ∃ (s1 s2 s3 : State) (low : Half) (high : Byte),
        exec .npcRdlo s = .next s1 ∧ s1.resp = some (.u16 low) ∧ exec (.evTick Config.activeLevel) s1 = .next s2 ∧
        exec .npcRdhi s2 = .next s3 ∧ s3.resp = some (.u8 high) ∧ (combine low high).toNat = pulseCount s) ∧
    (s.irqMask.getLsbD 0 = true →
      ∃ (s1 s2 s3 : State) (low : Half) (high : Byte),
        exec (.evTick Config.activeLevel) s = .next s1 ∧ exec .npcRdlo s1 = .next s2 ∧ s2.resp = some (.u16 low) ∧
        exec .npcRdhi s2 = .next s3 ∧ s3.resp = some (.u8 high) ∧
        (combine low high).toNat + 65536 = pulseTotal s1)

/-! ### Measurement State Machine -/

/-- `MSM.STATUS` returns the number of the state and `MSM.ERRORS` the error record, neither changing anything
(44_measurement_sm.md R136, R139). -/
def Obligations.StatusAndErrorsAreRead : Prop :=
  encode .msmStatus = [0x31] ∧ Instr.kind .msmStatus = .host ∧
  encode .msmErrors = [0x33] ∧ Instr.kind .msmErrors = .host ∧
  ∀ s : State, hostMayAct s →
    (s.status = .clean → exec .msmStatus s = .next { s with resp := some (.u8 0) }) ∧
    (s.status = .prevCharge → exec .msmStatus s = .next { s with resp := some (.u8 1) }) ∧
    (s.status = .negativeCounts → exec .msmStatus s = .next { s with resp := some (.u8 2) }) ∧
    (s.status = .resultAvail → exec .msmStatus s = .next { s with resp := some (.u8 3) }) ∧
    ∃ flags : Byte, flags.toNat = s.errFlags.toNat ∧
      exec .msmErrors s = .next { s with resp := some (.errors s.errCount flags) }

/-- `MSM.TAKE now` in RESULT_AVAIL hands off `now`, `value` and `neg_counts` and clears to CLEAN, nothing else; in any
other state it returns `None` and changes nothing (44_measurement_sm.md R137). -/
def Obligations.MsmTakeHandsOffOnce : Prop :=
  ∀ now : Word, encode (.msmTake now) = 0x32 :: le32 now ∧ Instr.kind (.msmTake now) = .host ∧
    ∀ s : State, hostMayAct s →
      (s.status = .resultAvail → exec (.msmTake now) s =
        .next { s with status := .clean, resp := some (.measurement now s.value s.negCounts) }) ∧
      (s.status ≠ .resultAvail → exec (.msmTake now) s = .next { s with resp := some .noResult })

/-- `MSM.RESET` sets `status` to CLEAN and writes nothing else, the error record least of all (44_measurement_sm.md
R138). -/
def Obligations.MsmResetClearsOnlyTheStatus : Prop :=
  encode .msmReset = [0x30] ∧ Instr.kind .msmReset = .host ∧
  ∀ s : State, hostMayAct s → exec .msmReset s = .next { s with status := .clean, resp := some .ok }

/-- From CLEAN with nothing pending or deferred, a sample, a boundary and a sample, each handled before the next, leave
RESULT_AVAIL with `value` the second sample minus the first and no error (44_measurement_sm.md R140). -/
def Obligations.SampleBoundarySampleMeasures : Prop :=
  ∀ (a b : Half) (c : Bool) (rest : List Byte) (s : State), s.mode = .prompt → s.irqMask = 0 → nothingPending s →
    s.status = .clean → s.wcRun = true → atLastEvent s → s.pcLow ≠ 0xFFFF →
    s.trace = encodeTrace [.evSample a, .evTick c, .evSample b] ++ rest →
    ∃ t : State, runSteps 6 s = .next t ∧ t.trace = rest ∧ t.status = .resultAvail ∧
      t.value.toInt = b.toInt - a.toInt ∧ t.errCount = s.errCount ∧ t.errFlags = s.errFlags

/-! ### Fixed-Point Packer -/

/-- `PACK` saturates for `numer ≥ denom` (a zero denominator among them), returns the exact rounded quotient for
`numer < denom < 2^32`, is refused beyond, and changes nothing (45_packer.md R150). -/
def Obligations.PackReturnsTheRoundedQuotient : Prop :=
  ∀ (i : Word) (k : Half) (j : Word) (d : Half),
    encode (.pack i k j d) = 0x40 :: (le32 i ++ le16 k ++ le32 j ++ le16 d) ∧ Instr.kind (.pack i k j d) = .host ∧
    ∀ s : State, hostMayAct s →
      (j.toNat * d.toNat ≤ i.toNat * d.toNat + k.toNat →
        exec (.pack i k j d) s = .next { s with resp := some (.u32 0xFFFFFFFF) }) ∧
      (i.toNat * d.toNat + k.toNat < j.toNat * d.toNat → j.toNat * d.toNat < 2 ^ 32 →
        ∃ q : Word, q.toNat =
            ((i.toNat * d.toNat + k.toNat) * 2 ^ 32 + j.toNat * d.toNat / 2) / (j.toNat * d.toNat) ∧
          exec (.pack i k j d) s = .next { s with resp := some (.u32 q) }) ∧
      (i.toNat * d.toNat + k.toNat < j.toNat * d.toNat → 2 ^ 32 ≤ j.toNat * d.toNat →
        exec (.pack i k j d) s = .refused .packOutOfDomain)

/-- For `numer < denom < 2^32` the result is the integer nearest to `numer * 2^32 / denom`, strictly within one half
(45_packer.md R153). -/
def Obligations.PackRoundsToTheNearest : Prop :=
  ∀ (i : Word) (k : Half) (j : Word) (d : Half) (s : State), hostMayAct s →
    i.toNat * d.toNat + k.toNat < j.toNat * d.toNat → j.toNat * d.toNat < 2 ^ 32 →
    ∃ q : Word, exec (.pack i k j d) s = .next { s with resp := some (.u32 q) } ∧
      2 * (q.toNat * (j.toNat * d.toNat)) < 2 * ((i.toNat * d.toNat + k.toNat) * 2 ^ 32) + j.toNat * d.toNat ∧
      2 * ((i.toNat * d.toNat + k.toNat) * 2 ^ 32) < 2 * (q.toNat * (j.toNat * d.toNat)) + j.toNat * d.toNat

/-- `PACK` is non-decreasing in `I` and in `K` for fixed `J` and `D`, wherever it completes (45_packer.md R154). -/
def Obligations.PackIsMonotone : Prop :=
  ∀ (i i' : Word) (k k' : Half) (j : Word) (d : Half) (s t t' : State) (q q' : Word),
    i.toNat ≤ i'.toNat → k.toNat ≤ k'.toNat →
    exec (.pack i k j d) s = .next t → t.resp = some (.u32 q) →
    exec (.pack i' k' j d) s = .next t' → t'.resp = some (.u32 q') → q.toNat ≤ q'.toNat

/-- Within the source's bounds on `J` and `D` `PACK` completes: no operands there are refused. With `K < D` it returns the
rounded quotient for `I < J` and saturates for every other `I` (45_packer.md R152). -/
def Obligations.PackCompletesWithinItsPreconditions : Prop :=
  ∀ (i : Word) (k : Half) (j : Word) (d : Half) (s : State), hostMayAct s →
    j.toNat ≤ Config.maxLen → d.toNat ≤ Config.dMax →
    (∃ q : Word, exec (.pack i k j d) s = .next { s with resp := some (.u32 q) }) ∧
    (k.toNat < d.toNat → i.toNat < j.toNat → ∃ q : Word,
      q.toNat = ((i.toNat * d.toNat + k.toNat) * 2 ^ 32 + j.toNat * d.toNat / 2) / (j.toNat * d.toNat) ∧
      exec (.pack i k j d) s = .next { s with resp := some (.u32 q) }) ∧
    (k.toNat < d.toNat → j.toNat ≤ i.toNat →
      exec (.pack i k j d) s = .next { s with resp := some (.u32 0xFFFFFFFF) })

/-! ### Deferral and start-up -/

/-- `IRQ.DEFER m` adds the sources of `m` to the mask, so that none of them is enabled, each having been without its
pending flag or deferred already; `IRQ.RESUME m` takes them out, so that each is enabled exactly if it is pending;
neither changes anything else (46_system.md R160, R161). -/
def Obligations.DeferAndResumeSetTheMask : Prop :=
  ∀ m : Bits3,
    encode (.irqDefer m) = [0x50 ||| m.setWidth 8] ∧ Instr.kind (.irqDefer m) = .host ∧
    encode (.irqResume m) = [0x58 ||| m.setWidth 8] ∧ Instr.kind (.irqResume m) = .host ∧
    ∀ s : State, hostMayAct s →
      (∃ t : State, exec (.irqDefer m) s = .next t ∧ t = { s with irqMask := s.irqMask ||| m, resp := some .ok } ∧
        ∀ x, m.getLsbD (sourceNumber x) = true →
          enabled x t = false ∧ (pending x s = false ∨ deferred x s = true)) ∧
      (∃ t : State, exec (.irqResume m) s = .next t ∧ t = { s with irqMask := s.irqMask &&& ~~~m, resp := some .ok } ∧
        ∀ x, m.getLsbD (sourceNumber x) = true → enabled x t = pending x s)

/-- `ACQ.ARM len, div`, the window one that `WC.CONFIGURE` accepts, brings the block from any state in which a host
operation is possible to a running acquisition (70_reset_and_hazards.md R203). Its first operation ends every deferral and the handlers of the sources pending then run, in
priority order (60_exceptions.md R178), leaving `u`; the other eight then configure the window, zero and start both counters
and clear the status, and change nothing else. The one exception is 42_pulse_counter.md R103's: a stale `ISR.OVF` at
`pc_high = 0xFF` is refused. -/
def Obligations.AcqArmStartsAnAcquisition : Prop :=
  ∀ (len : Word) (div : Half) (rest : List Byte) (s : State), s.mode = .prompt → hostMayAct s →
    div ≠ 0 → len ≠ 0 → len.toNat % div.toNat = 0 → len.toNat / div.toNat ≤ 65536 →
    s.trace = (Pseudo.acqArm len div).encode ++ rest →
    (s.ovfPending = true → s.pcHigh = 0xFF → runSteps 2 s = .refused .highByteOverflow) ∧
    ((s.ovfPending = true → s.pcHigh ≠ 0xFF) →
      ∃ u : State, execAll (staleHandlers s) { s with irqMask := 0, trace := u.trace, resp := some .ok } = .next u ∧
        runSteps (1 + (staleHandlers s).length) s = .next u ∧ nothingPending u ∧ u.irqMask = 0 ∧
        runSteps (9 + (staleHandlers s).length) s =
          .next { u with winLen := len, winDiv := div, wcLow := 0, wcHigh := 0, wcRun := true,
                         pcLow := 0, pcHigh := 0, pcRun := true, status := .clean, trace := rest, resp := some .ok })

/-- `ACQ.ARM len, div` with a window the divisor does not divide stops at `WC.CONFIGURE`, which answers
`Err(NotDivisible)`: the deferrals are ended and the stale handlers have run, leaving `u`; the counters are stopped and
nothing else is changed, the prior configuration least of all (30_encoding.md R67, 70_reset_and_hazards.md R203). That the
expansion ends there by the operands is the model's reading (log entry 16). -/
def Obligations.AcqArmStopsOnNotDivisible : Prop :=
  ∀ (len : Word) (div : Half) (rest : List Byte) (s : State), s.mode = .prompt → hostMayAct s →
    div = 0 ∨ len.toNat % div.toNat ≠ 0 → (s.ovfPending = true → s.pcHigh ≠ 0xFF) →
    s.trace = (Pseudo.acqArm len div).encode ++ rest →
    ∃ u : State, execAll (staleHandlers s) { s with irqMask := 0, trace := u.trace, resp := some .ok } = .next u ∧
      runSteps (1 + (staleHandlers s).length) s = .next u ∧ nothingPending u ∧ u.irqMask = 0 ∧
      runSteps (4 + (staleHandlers s).length) s =
        .next { u with wcRun := false, pcRun := false, trace := rest, resp := some .errNotDivisible }

/-- From the state a boundary leaves, the blanker's count is `BLANK_LEN` less the events since the last boundary, over any
number of further boundaries: it is asserted for exactly the first `BLANK_LEN` events of every window, and all the time
where the window is no longer than that (40_wide_event_counter.md R87, item 4). -/
def Obligations.BlankerFollowsTheWindows : Prop :=
  ∀ (cs : List Bool) (s : State), Inv s → s.wcRun = true → position s = 0 → s.blankOut = true →
    s.blankCnt = Config.blankLen →
    ∃ t : State, execAll (ticks cs) s = .next t ∧
      t.blankCnt.toNat = Config.blankLen.toNat - cs.length % s.winLen.toNat ∧
      (t.blankOut = true ↔ cs.length % s.winLen.toNat < Config.blankLen.toNat) ∧
      (s.winLen.toNat ≤ Config.blankLen.toNat → t.blankOut = true)
end

