-- ==== Sys2Proof/Laws/Decode.lean ====
section
/-! SUPPORT. The decoder and the encoder: what byte 0 spells, and how operands are cut into bytes and put together. -/

namespace Sys2Proof

/-! ### Little-endian operands -/

@[simp] theorem ofLe16_bytes (v : Half) : ofLe16 (v.extractLsb' 0 8) (v.extractLsb' 8 8) = v := by
  unfold ofLe16
  apply BitVec.eq_of_getLsbD_eq
  intro i hi
  simp only [BitVec.getLsbD_append, BitVec.getLsbD_extractLsb']
  split
  · next h => simp [h]
  · next h => rw [show 8 + (i - 8) = i by omega]; simp; omega

@[simp] theorem ofLe32_bytes (v : Word) :
    ofLe32 (v.extractLsb' 0 8) (v.extractLsb' 8 8) (v.extractLsb' 16 8) (v.extractLsb' 24 8) = v := by
  unfold ofLe32
  apply BitVec.eq_of_getLsbD_eq
  intro i hi
  simp only [BitVec.getLsbD_append, BitVec.getLsbD_extractLsb']
  split
  · next h => simp [h]
  · split
    · next h => rw [show 8 + (i - 8) = i by omega]; simp [h]
    · split
      · next h => rw [show 16 + (i - 8 - 8) = i by omega]; simp [h]
      · next h => rw [show 24 + (i - 8 - 8 - 8) = i by omega]; simp; omega

@[simp] theorem le16_ofLe16 (a b : Byte) : le16 (ofLe16 a b) = [a, b] := by
  have h1 : (ofLe16 a b).extractLsb' 0 8 = a := by
    apply BitVec.eq_of_getLsbD_eq
    intro i hi
    simp only [ofLe16, BitVec.getLsbD_append, BitVec.getLsbD_extractLsb', hi, decide_true, Bool.true_and]
    rw [if_pos (by omega)]; congr 1; omega
  have h2 : (ofLe16 a b).extractLsb' 8 8 = b := by
    apply BitVec.eq_of_getLsbD_eq
    intro i hi
    simp only [ofLe16, BitVec.getLsbD_append, BitVec.getLsbD_extractLsb', hi, decide_true, Bool.true_and]
    rw [if_neg (by omega)]; congr 1; omega
  simp only [le16, h1, h2]

@[simp] theorem le32_ofLe32 (a b c d : Byte) : le32 (ofLe32 a b c d) = [a, b, c, d] := by
  have h1 : (ofLe32 a b c d).extractLsb' 0 8 = a := by
    apply BitVec.eq_of_getLsbD_eq
    intro i hi
    simp only [ofLe32, BitVec.getLsbD_append, BitVec.getLsbD_extractLsb', hi, decide_true, Bool.true_and]
    rw [if_pos (by omega)]; congr 1; omega
  have h2 : (ofLe32 a b c d).extractLsb' 8 8 = b := by
    apply BitVec.eq_of_getLsbD_eq
    intro i hi
    simp only [ofLe32, BitVec.getLsbD_append, BitVec.getLsbD_extractLsb', hi, decide_true, Bool.true_and]
    rw [if_neg (by omega), if_pos (by omega)]; congr 1; omega
  have h3 : (ofLe32 a b c d).extractLsb' 16 8 = c := by
    apply BitVec.eq_of_getLsbD_eq
    intro i hi
    simp only [ofLe32, BitVec.getLsbD_append, BitVec.getLsbD_extractLsb', hi, decide_true, Bool.true_and]
    rw [if_neg (by omega), if_neg (by omega), if_pos (by omega)]; congr 1; omega
  have h4 : (ofLe32 a b c d).extractLsb' 24 8 = d := by
    apply BitVec.eq_of_getLsbD_eq
    intro i hi
    simp only [ofLe32, BitVec.getLsbD_append, BitVec.getLsbD_extractLsb', hi, decide_true, Bool.true_and]
    rw [if_neg (by omega), if_neg (by omega), if_neg (by omega)]; congr 1; omega
  simp only [le32, h1, h2, h3, h4]

/-! ### Byte 0 -/

/-- What byte 0 spells agrees with the encoder: the byte of a one-byte word is its encoding, and the four other opcodes
have one byte each (30_encoding.md R63). -/
def opcodeAgrees (b : Byte) : Option Opcode → Bool
  | some (.whole i) => decide (encode i = [b])
  | some .sample => decide (b = 0x04)
  | some .configure => decide (b = 0x10)
  | some .take => decide (b = 0x32)
  | some .pack => decide (b = 0x40)
  | none => true

theorem opcodeAgrees_opcodeOf : ∀ b : Byte, opcodeAgrees b (opcodeOf b) = true := by decide

/-- The byte of a one-byte word is its encoding. -/
theorem encode_of_opcodeOf_whole {b : Byte} {i : Instr} (h : opcodeOf b = some (.whole i)) : encode i = [b] := by
  simpa [h, opcodeAgrees] using opcodeAgrees_opcodeOf b

theorem byte_of_opcodeOf_sample {b : Byte} (h : opcodeOf b = some .sample) : b = 0x04 := by
  simpa [h, opcodeAgrees] using opcodeAgrees_opcodeOf b

theorem byte_of_opcodeOf_configure {b : Byte} (h : opcodeOf b = some .configure) : b = 0x10 := by
  simpa [h, opcodeAgrees] using opcodeAgrees_opcodeOf b

theorem byte_of_opcodeOf_take {b : Byte} (h : opcodeOf b = some .take) : b = 0x32 := by
  simpa [h, opcodeAgrees] using opcodeAgrees_opcodeOf b

theorem byte_of_opcodeOf_pack {b : Byte} (h : opcodeOf b = some .pack) : b = 0x40 := by
  simpa [h, opcodeAgrees] using opcodeAgrees_opcodeOf b

/-- A whole word of one byte is a word of format N, T or M (30_encoding.md R62). -/
theorem opcodeOf_evTick (c : Bool) : opcodeOf (0x02 ||| (BitVec.ofBool c).setWidth 8) = some (.whole (.evTick c)) := by
  revert c
  decide

theorem opcodeOf_irqDefer (m : Bits3) : opcodeOf (0x50 ||| m.setWidth 8) = some (.whole (.irqDefer m)) := by
  revert m
  decide

theorem opcodeOf_irqResume (m : Bits3) : opcodeOf (0x58 ||| m.setWidth 8) = some (.whole (.irqResume m)) := by
  revert m
  decide

/-- The decoder on a word whose byte 0 is legal. -/
theorem decode_of_opcode {b : Byte} {op : Opcode} (rest : List Byte) (h : opcodeOf b = some op) :
    decode (b :: rest) = match assemble op rest with
      | none => .error (.truncatedWord b)
      | some r => .ok r := by
  cases hr : assemble op rest <;> simp [decode, decodeWord, h, hr]

/-- Everything the decoder can take from the front of a trace: byte 0 is legal and its operands are there. -/
theorem decode_ok {bs rest : List Byte} {i : Instr} (h : decode bs = .ok (i, rest)) :
    ∃ b tail op, bs = b :: tail ∧ opcodeOf b = some op ∧ assemble op tail = some (i, rest) := by
  cases bs with
  | nil => cases h
  | cons b tail =>
    simp only [decode, decodeWord] at h
    split at h
    · cases h
    · next op hop =>
      split at h
      · cases h
      · next r hr => cases h; exact ⟨b, tail, op, rfl, hop, hr⟩

end Sys2Proof
end

