-- ==== Sys2Proof/Laws/Operands.lean ====
section
/-! SUPPORT. What the derived quantities are as numbers. -/

namespace Sys2Proof.Machine

/-- `combine` is exact: `high * 65536 + low` (00_scope.md R6, R7). -/
@[simp] theorem combine_toNat (low : Half) (high : Byte) :
    (combine low high).toNat = high.toNat * 65536 + low.toNat := by
  have hl := low.isLt
  have hh := high.isLt
  simp only [combine, BitVec.toNat_setWidth, BitVec.toNat_append]
  rw [← Nat.shiftLeft_add_eq_or_of_lt hl, Nat.shiftLeft_eq]
  omega

/-- A pulse count has 24 bits (20_memory.md R41). -/
theorem combine_lt (low : Half) (high : Byte) : (combine low high).toNat < 2 ^ 24 := by
  have hl := low.isLt
  have hh := high.isLt
  rw [combine_toNat]
  omega

/-- PulseCount is below 2^24 (10_state.md R19). -/
theorem pulseCount_lt (s : State) : pulseCount s < 2 ^ 24 := by
  have hl := s.pcLow.isLt
  have hh := s.pcHigh.isLt
  unfold pulseCount
  omega

/-- Adding one below the top of a width is exact. -/
theorem toNat_add_one {w : Nat} (x : BitVec w) (h : x.toNat + 1 < 2 ^ w) : (x + 1#w).toNat = x.toNat + 1 := by
  rw [BitVec.toNat_add, BitVec.toNat_ofNat]
  have h1 : 1 < 2 ^ w := by omega
  rw [Nat.mod_eq_of_lt h1, Nat.mod_eq_of_lt h]

/-- Taking one from a value that is not zero is exact. -/
theorem toNat_sub_one {w : Nat} (x : BitVec w) (h : x ≠ 0#w) : (x - 1#w).toNat = x.toNat - 1 := by
  have h0 : x.toNat ≠ 0 := fun hc => h (BitVec.eq_of_toNat_eq (by simpa using hc))
  have hx := x.isLt
  have h1 : (1#w).toNat = 1 := by rw [BitVec.toNat_ofNat, Nat.mod_eq_of_lt (by omega)]
  rw [BitVec.toNat_sub_of_le (by rw [BitVec.le_def, h1]; omega), h1]

/-- What `WC.CONFIGURE` answers with `Err(NotDivisible)` (43_window_controller.md R120). -/
theorem notDivisible_iff (len : Word) (div : Half) :
    notDivisible len div = true ↔ div = 0 ∨ len.toNat % div.toNat ≠ 0 := by
  simp [notDivisible]

theorem notDivisible_eq_false (len : Word) (div : Half) :
    notDivisible len div = false ↔ div ≠ 0 ∧ len.toNat % div.toNat = 0 := by
  simp [notDivisible]

/-- What `WC.CONFIGURE` is refused for (43_window_controller.md R120). -/
theorem windowTooShortOrLong_iff (len : Word) (div : Half) :
    windowTooShortOrLong len div = true ↔ len = 0 ∨ 65536 < len.toNat / div.toNat := by
  simp only [windowTooShortOrLong, Bool.or_eq_true, beq_iff_eq, decide_eq_true_eq]
  exact Iff.rfl

theorem windowTooShortOrLong_eq_false (len : Word) (div : Half) :
    windowTooShortOrLong len div = false ↔ len ≠ 0 ∧ len.toNat / div.toNat ≤ 65536 := by
  rw [← Bool.not_eq_true, windowTooShortOrLong_iff]
  simp [not_or]

/-- The difference of two samples is exact, without wrap (44_measurement_sm.md R131). -/
@[simp] theorem sampleDifference_toInt (new old : Half) :
    (sampleDifference new old).toInt = new.toInt - old.toInt := by
  have hn := BitVec.toInt_lt (x := new)
  have hn' := BitVec.le_toInt (x := new)
  have ho := BitVec.toInt_lt (x := old)
  have ho' := BitVec.le_toInt (x := old)
  simp only [sampleDifference, BitVec.toInt_sub]
  rw [BitVec.toInt_signExtend_of_le (by omega), BitVec.toInt_signExtend_of_le (by omega)]
  norm_num at hn hn' ho ho'
  rw [Int.bmod_def]
  omega

/-- `BLANK_LEN` is at least 1 and fits 16 bits (00_scope.md R5). -/
theorem blankLen_toNat : Config.blankLen.toNat = Config.blankLenPred.val + 1 := by
  have h := Config.blankLenPred.isLt
  simp only [Config.blankLen, BitVec.toNat_ofNat]
  omega

theorem blankLen_ne_zero : Config.blankLen ≠ 0 := by
  intro h
  have := blankLen_toNat
  rw [h] at this
  simp at this

/-- Where `numer < denom < 2^32`, the quotient of `PACK` fits 32 bits (45_packer.md R153). -/
theorem packQuotient_lt {numer denom : Nat} (h : numer < denom) (hd : denom < 2 ^ 32) :
    packQuotient numer denom < 2 ^ 32 := by
  unfold packQuotient
  rw [Nat.div_lt_iff_lt_mul (by omega)]
  omega

/-- `PACK` saturates on `numer ≥ denom` (45_packer.md R150, R154). -/
theorem packResult_saturates {i j : Word} {k d : Half} (h : packDenom j d ≤ packNumer i k d) :
    packResult i k j d = some 0xFFFFFFFF := by
  simp [packResult, h]

/-- `PACK` returns the quotient itself, nothing cut off (45_packer.md R150, R153). -/
theorem packResult_quotient {i j : Word} {k d : Half} (h : packNumer i k d < packDenom j d) (hd : packDenom j d < 2 ^ 32) :
    ∃ q : Word, packResult i k j d = some q ∧ q.toNat = packQuotient (packNumer i k d) (packDenom j d) := by
  refine ⟨BitVec.ofNat 32 (packQuotient (packNumer i k d) (packDenom j d)), ?_, ?_⟩
  · simp only [packResult, Nat.not_le.mpr h, if_false, if_pos hd]
  · rw [BitVec.toNat_ofNat, Nat.mod_eq_of_lt (packQuotient_lt h hd)]

/-- Outside its domain `PACK` has no result (45_packer.md R150). -/
theorem packResult_none {i j : Word} {k d : Half} (h : packNumer i k d < packDenom j d) (hd : 2 ^ 32 ≤ packDenom j d) :
    packResult i k j d = none := by
  simp only [packResult, Nat.not_le.mpr h, Nat.not_lt.mpr hd, if_false]

end Sys2Proof.Machine
end

