-- ==== Sys2Proof/Laws/State.lean ====
section
/-! SUPPORT. One lemma per field per named update of the state, so that no proof unfolds an update: `ret` puts a result on the
result port, `silent` clears it, `withTrace` replaces the remaining trace, `seqError` records a sequencing error. -/

namespace Sys2Proof.Machine

@[simp] theorem State.ret_winLen (s : State) (r : Response) : (s.ret r).winLen = s.winLen := rfl
@[simp] theorem State.ret_winDiv (s : State) (r : Response) : (s.ret r).winDiv = s.winDiv := rfl
@[simp] theorem State.ret_wcLow (s : State) (r : Response) : (s.ret r).wcLow = s.wcLow := rfl
@[simp] theorem State.ret_wcHigh (s : State) (r : Response) : (s.ret r).wcHigh = s.wcHigh := rfl
@[simp] theorem State.ret_wcRun (s : State) (r : Response) : (s.ret r).wcRun = s.wcRun := rfl
@[simp] theorem State.ret_bndPending (s : State) (r : Response) : (s.ret r).bndPending = s.bndPending := rfl
@[simp] theorem State.ret_blankOut (s : State) (r : Response) : (s.ret r).blankOut = s.blankOut := rfl
@[simp] theorem State.ret_blankCnt (s : State) (r : Response) : (s.ret r).blankCnt = s.blankCnt := rfl
@[simp] theorem State.ret_polQ (s : State) (r : Response) : (s.ret r).polQ = s.polQ := rfl
@[simp] theorem State.ret_pcLow (s : State) (r : Response) : (s.ret r).pcLow = s.pcLow := rfl
@[simp] theorem State.ret_pcHigh (s : State) (r : Response) : (s.ret r).pcHigh = s.pcHigh := rfl
@[simp] theorem State.ret_pcRun (s : State) (r : Response) : (s.ret r).pcRun = s.pcRun := rfl
@[simp] theorem State.ret_ovfPending (s : State) (r : Response) : (s.ret r).ovfPending = s.ovfPending := rfl
@[simp] theorem State.ret_status (s : State) (r : Response) : (s.ret r).status = s.status := rfl
@[simp] theorem State.ret_baseline (s : State) (r : Response) : (s.ret r).baseline = s.baseline := rfl
@[simp] theorem State.ret_negCounts (s : State) (r : Response) : (s.ret r).negCounts = s.negCounts := rfl
@[simp] theorem State.ret_value (s : State) (r : Response) : (s.ret r).value = s.value := rfl
@[simp] theorem State.ret_smpData (s : State) (r : Response) : (s.ret r).smpData = s.smpData := rfl
@[simp] theorem State.ret_smpPending (s : State) (r : Response) : (s.ret r).smpPending = s.smpPending := rfl
@[simp] theorem State.ret_errCount (s : State) (r : Response) : (s.ret r).errCount = s.errCount := rfl
@[simp] theorem State.ret_errFlags (s : State) (r : Response) : (s.ret r).errFlags = s.errFlags := rfl
@[simp] theorem State.ret_irqMask (s : State) (r : Response) : (s.ret r).irqMask = s.irqMask := rfl
@[simp] theorem State.ret_trace (s : State) (r : Response) : (s.ret r).trace = s.trace := rfl
@[simp] theorem State.ret_mode (s : State) (r : Response) : (s.ret r).mode = s.mode := rfl
@[simp] theorem State.ret_resp (s : State) (r : Response) : (s.ret r).resp = some r := rfl
@[simp] theorem State.ret_draws (s : State) (r : Response) : (s.ret r).draws = s.draws := rfl

@[simp] theorem State.silent_winLen (s : State) : (s.silent).winLen = s.winLen := rfl
@[simp] theorem State.silent_winDiv (s : State) : (s.silent).winDiv = s.winDiv := rfl
@[simp] theorem State.silent_wcLow (s : State) : (s.silent).wcLow = s.wcLow := rfl
@[simp] theorem State.silent_wcHigh (s : State) : (s.silent).wcHigh = s.wcHigh := rfl
@[simp] theorem State.silent_wcRun (s : State) : (s.silent).wcRun = s.wcRun := rfl
@[simp] theorem State.silent_bndPending (s : State) : (s.silent).bndPending = s.bndPending := rfl
@[simp] theorem State.silent_blankOut (s : State) : (s.silent).blankOut = s.blankOut := rfl
@[simp] theorem State.silent_blankCnt (s : State) : (s.silent).blankCnt = s.blankCnt := rfl
@[simp] theorem State.silent_polQ (s : State) : (s.silent).polQ = s.polQ := rfl
@[simp] theorem State.silent_pcLow (s : State) : (s.silent).pcLow = s.pcLow := rfl
@[simp] theorem State.silent_pcHigh (s : State) : (s.silent).pcHigh = s.pcHigh := rfl
@[simp] theorem State.silent_pcRun (s : State) : (s.silent).pcRun = s.pcRun := rfl
@[simp] theorem State.silent_ovfPending (s : State) : (s.silent).ovfPending = s.ovfPending := rfl
@[simp] theorem State.silent_status (s : State) : (s.silent).status = s.status := rfl
@[simp] theorem State.silent_baseline (s : State) : (s.silent).baseline = s.baseline := rfl
@[simp] theorem State.silent_negCounts (s : State) : (s.silent).negCounts = s.negCounts := rfl
@[simp] theorem State.silent_value (s : State) : (s.silent).value = s.value := rfl
@[simp] theorem State.silent_smpData (s : State) : (s.silent).smpData = s.smpData := rfl
@[simp] theorem State.silent_smpPending (s : State) : (s.silent).smpPending = s.smpPending := rfl
@[simp] theorem State.silent_errCount (s : State) : (s.silent).errCount = s.errCount := rfl
@[simp] theorem State.silent_errFlags (s : State) : (s.silent).errFlags = s.errFlags := rfl
@[simp] theorem State.silent_irqMask (s : State) : (s.silent).irqMask = s.irqMask := rfl
@[simp] theorem State.silent_trace (s : State) : (s.silent).trace = s.trace := rfl
@[simp] theorem State.silent_mode (s : State) : (s.silent).mode = s.mode := rfl
@[simp] theorem State.silent_resp (s : State) : (s.silent).resp = none := rfl
@[simp] theorem State.silent_draws (s : State) : (s.silent).draws = s.draws := rfl

@[simp] theorem State.withTrace_winLen (s : State) (bs : List Byte) : (s.withTrace bs).winLen = s.winLen := rfl
@[simp] theorem State.withTrace_winDiv (s : State) (bs : List Byte) : (s.withTrace bs).winDiv = s.winDiv := rfl
@[simp] theorem State.withTrace_wcLow (s : State) (bs : List Byte) : (s.withTrace bs).wcLow = s.wcLow := rfl
@[simp] theorem State.withTrace_wcHigh (s : State) (bs : List Byte) : (s.withTrace bs).wcHigh = s.wcHigh := rfl
@[simp] theorem State.withTrace_wcRun (s : State) (bs : List Byte) : (s.withTrace bs).wcRun = s.wcRun := rfl
@[simp] theorem State.withTrace_bndPending (s : State) (bs : List Byte) : (s.withTrace bs).bndPending = s.bndPending := rfl
@[simp] theorem State.withTrace_blankOut (s : State) (bs : List Byte) : (s.withTrace bs).blankOut = s.blankOut := rfl
@[simp] theorem State.withTrace_blankCnt (s : State) (bs : List Byte) : (s.withTrace bs).blankCnt = s.blankCnt := rfl
@[simp] theorem State.withTrace_polQ (s : State) (bs : List Byte) : (s.withTrace bs).polQ = s.polQ := rfl
@[simp] theorem State.withTrace_pcLow (s : State) (bs : List Byte) : (s.withTrace bs).pcLow = s.pcLow := rfl
@[simp] theorem State.withTrace_pcHigh (s : State) (bs : List Byte) : (s.withTrace bs).pcHigh = s.pcHigh := rfl
@[simp] theorem State.withTrace_pcRun (s : State) (bs : List Byte) : (s.withTrace bs).pcRun = s.pcRun := rfl
@[simp] theorem State.withTrace_ovfPending (s : State) (bs : List Byte) : (s.withTrace bs).ovfPending = s.ovfPending := rfl
@[simp] theorem State.withTrace_status (s : State) (bs : List Byte) : (s.withTrace bs).status = s.status := rfl
@[simp] theorem State.withTrace_baseline (s : State) (bs : List Byte) : (s.withTrace bs).baseline = s.baseline := rfl
@[simp] theorem State.withTrace_negCounts (s : State) (bs : List Byte) : (s.withTrace bs).negCounts = s.negCounts := rfl
@[simp] theorem State.withTrace_value (s : State) (bs : List Byte) : (s.withTrace bs).value = s.value := rfl
@[simp] theorem State.withTrace_smpData (s : State) (bs : List Byte) : (s.withTrace bs).smpData = s.smpData := rfl
@[simp] theorem State.withTrace_smpPending (s : State) (bs : List Byte) : (s.withTrace bs).smpPending = s.smpPending := rfl
@[simp] theorem State.withTrace_errCount (s : State) (bs : List Byte) : (s.withTrace bs).errCount = s.errCount := rfl
@[simp] theorem State.withTrace_errFlags (s : State) (bs : List Byte) : (s.withTrace bs).errFlags = s.errFlags := rfl
@[simp] theorem State.withTrace_irqMask (s : State) (bs : List Byte) : (s.withTrace bs).irqMask = s.irqMask := rfl
@[simp] theorem State.withTrace_trace (s : State) (bs : List Byte) : (s.withTrace bs).trace = bs := rfl
@[simp] theorem State.withTrace_mode (s : State) (bs : List Byte) : (s.withTrace bs).mode = s.mode := rfl
@[simp] theorem State.withTrace_resp (s : State) (bs : List Byte) : (s.withTrace bs).resp = s.resp := rfl
@[simp] theorem State.withTrace_draws (s : State) (bs : List Byte) : (s.withTrace bs).draws = s.draws := rfl

@[simp] theorem seqError_winLen (k : SequencingError) (s : State) : (seqError k s).winLen = s.winLen := rfl
@[simp] theorem seqError_winDiv (k : SequencingError) (s : State) : (seqError k s).winDiv = s.winDiv := rfl
@[simp] theorem seqError_wcLow (k : SequencingError) (s : State) : (seqError k s).wcLow = s.wcLow := rfl
@[simp] theorem seqError_wcHigh (k : SequencingError) (s : State) : (seqError k s).wcHigh = s.wcHigh := rfl
@[simp] theorem seqError_wcRun (k : SequencingError) (s : State) : (seqError k s).wcRun = s.wcRun := rfl
@[simp] theorem seqError_bndPending (k : SequencingError) (s : State) : (seqError k s).bndPending = s.bndPending := rfl
@[simp] theorem seqError_blankOut (k : SequencingError) (s : State) : (seqError k s).blankOut = s.blankOut := rfl
@[simp] theorem seqError_blankCnt (k : SequencingError) (s : State) : (seqError k s).blankCnt = s.blankCnt := rfl
@[simp] theorem seqError_polQ (k : SequencingError) (s : State) : (seqError k s).polQ = s.polQ := rfl
@[simp] theorem seqError_pcLow (k : SequencingError) (s : State) : (seqError k s).pcLow = s.pcLow := rfl
@[simp] theorem seqError_pcHigh (k : SequencingError) (s : State) : (seqError k s).pcHigh = s.pcHigh := rfl
@[simp] theorem seqError_pcRun (k : SequencingError) (s : State) : (seqError k s).pcRun = s.pcRun := rfl
@[simp] theorem seqError_ovfPending (k : SequencingError) (s : State) : (seqError k s).ovfPending = s.ovfPending := rfl
@[simp] theorem seqError_status (k : SequencingError) (s : State) : (seqError k s).status = s.status := rfl
@[simp] theorem seqError_baseline (k : SequencingError) (s : State) : (seqError k s).baseline = s.baseline := rfl
@[simp] theorem seqError_negCounts (k : SequencingError) (s : State) : (seqError k s).negCounts = s.negCounts := rfl
@[simp] theorem seqError_value (k : SequencingError) (s : State) : (seqError k s).value = s.value := rfl
@[simp] theorem seqError_smpData (k : SequencingError) (s : State) : (seqError k s).smpData = s.smpData := rfl
@[simp] theorem seqError_smpPending (k : SequencingError) (s : State) : (seqError k s).smpPending = s.smpPending := rfl
@[simp] theorem seqError_errCount (k : SequencingError) (s : State) : (seqError k s).errCount = saturatingSucc s.errCount := rfl
@[simp] theorem seqError_errFlags (k : SequencingError) (s : State) : (seqError k s).errFlags = s.errFlags ||| errorFlag k := rfl
@[simp] theorem seqError_irqMask (k : SequencingError) (s : State) : (seqError k s).irqMask = s.irqMask := rfl
@[simp] theorem seqError_trace (k : SequencingError) (s : State) : (seqError k s).trace = s.trace := rfl
@[simp] theorem seqError_mode (k : SequencingError) (s : State) : (seqError k s).mode = s.mode := rfl
@[simp] theorem seqError_resp (k : SequencingError) (s : State) : (seqError k s).resp = s.resp := rfl
@[simp] theorem seqError_draws (k : SequencingError) (s : State) : (seqError k s).draws = s.draws := rfl

end Sys2Proof.Machine
end

