-- ==== Sys2Proof/Laws/Ops.lean ====
section
/-! SUPPORT. For each shared operation, once, everything it can do; the proofs cite these instead of unfolding it. -/

namespace Sys2Proof.Machine

/-! ### Dispatch -/

theorem nextHandler_eq (s : State) : nextHandler s =
    if enabled .ovf s then some .ovf else if enabled .bnd s then some .bnd else if enabled .smp s then some .smp else none := by
  simp only [nextHandler, irqPriority, List.find?]
  cases enabled .ovf s <;> cases enabled .bnd s <;> cases enabled .smp s <;> rfl

/-- The main loop may act exactly where no source is enabled (60_exceptions.md R178). -/
theorem nextHandler_eq_none {s : State} : nextHandler s = none ↔ ∀ x, enabled x s = false := by
  rw [nextHandler_eq]
  constructor
  · intro h x
    cases h1 : enabled .ovf s <;> cases h2 : enabled .bnd s <;> cases h3 : enabled .smp s <;> simp_all
    cases x <;> assumption
  · intro h
    simp [h .ovf, h .bnd, h .smp]

/-- The handler that comes next is enabled. -/
theorem enabled_of_nextHandler {s : State} {x : Source} (h : nextHandler s = some x) : enabled x s = true := by
  rw [nextHandler_eq] at h
  split at h
  · cases h; assumption
  · split at h
    · cases h; assumption
    · split at h
      · cases h; assumption
      · cases h

/-- An enabled source keeps the main loop out. -/
theorem nextHandler_isSome {s : State} {x : Source} (h : enabled x s = true) : ∃ y, nextHandler s = some y := by
  cases hn : nextHandler s with
  | some y => exact ⟨y, rfl⟩
  | none =>
    have := nextHandler_eq_none.mp hn x
    simp_all

/-- Which handler comes next depends on the pending flags and the mask alone (10_state.md R34). -/
theorem nextHandler_congr {s t : State} (ho : s.ovfPending = t.ovfPending) (hb : s.bndPending = t.bndPending)
    (hs : s.smpPending = t.smpPending) (hm : s.irqMask = t.irqMask) : nextHandler s = nextHandler t := by
  simp [nextHandler_eq, enabled, pending, deferred, ho, hb, hs, hm]

/-- With nothing pending no handler comes next. -/
theorem nextHandler_of_nothingPending {s : State} (ho : s.ovfPending = false) (hb : s.bndPending = false)
    (hs : s.smpPending = false) : nextHandler s = none := by
  simp [nextHandler_eq, enabled, pending, ho, hb, hs]

/-- A handler step whose turn it is performs its body. -/
theorem takeInterrupt_of_turn {x : Source} {s : State} (body : State → Host.Outcome State Fault Refusal)
    (h : nextHandler s = some x) : takeInterrupt x body s = body s := by
  simp [takeInterrupt, enabled_of_nextHandler h, h]

/-- Everything taking an interrupt can do: perform its body, when it is its turn, or be refused. -/
theorem takeInterrupt_cases (x : Source) (body : State → Host.Outcome State Fault Refusal) (s : State) :
    (nextHandler s = some x ∧ takeInterrupt x body s = body s) ∨
    (enabled x s = false ∧ takeInterrupt x body s = .refused .handlerNotEnabled) ∨
    (enabled x s = true ∧ nextHandler s ≠ some x ∧ takeInterrupt x body s = .refused .handlerOutranked) := by
  unfold takeInterrupt
  cases he : enabled x s with
  | false => exact .inr (.inl ⟨rfl, rfl⟩)
  | true =>
    by_cases hn : nextHandler s = some x
    · exact .inl ⟨hn, by simp [hn]⟩
    · exact .inr (.inr ⟨rfl, hn, by simp [hn]⟩)

/-- If taking an interrupt answers a next state, it was its turn and its body answered it. -/
theorem takeInterrupt_next {x : Source} {body : State → Host.Outcome State Fault Refusal} {s t : State}
    (h : takeInterrupt x body s = .next t) : nextHandler s = some x ∧ body s = .next t := by
  rcases takeInterrupt_cases x body s with ⟨hn, he⟩ | ⟨_, he⟩ | ⟨_, _, he⟩
  · exact ⟨hn, he ▸ h⟩
  · rw [he] at h; cases h
  · rw [he] at h; cases h

/-- A host operation performs its body where the main loop may act. -/
theorem hostOperation_of_mayAct {s : State} (body : State → Host.Outcome State Fault Refusal)
    (h : nextHandler s = none) : hostOperation body s = body s := by
  simp [hostOperation, h]

/-- A host operation is refused while a handler is enabled. -/
theorem hostOperation_refused {s : State} {x : Source} (body : State → Host.Outcome State Fault Refusal)
    (h : nextHandler s = some x) : hostOperation body s = .refused .hostWhileHandlerEnabled := by
  simp [hostOperation, h]

/-- If a host operation answers a next state, the main loop could act and its body answered it. -/
theorem hostOperation_next {body : State → Host.Outcome State Fault Refusal} {s t : State}
    (h : hostOperation body s = .next t) : nextHandler s = none ∧ body s = .next t := by
  cases hn : nextHandler s with
  | none => exact ⟨rfl, hostOperation_of_mayAct body hn ▸ h⟩
  | some x => rw [hostOperation_refused body hn] at h; cases h

@[simp] theorem completes_next (f : State → State) (r : Response) (s t : State) :
    completes f r s = .next t ↔ t = (f s).ret r := by
  simp [completes, eq_comm]

@[simp] theorem returnFromHandler_next (s t : State) : returnFromHandler s = .next t ↔ t = s.silent := by
  simp [returnFromHandler, eq_comm]

/-! ### Hardware procedures -/

/-- `BLANK.ADVANCE` writes the blanker alone. -/
theorem blankAdvance_frame (s : State) :
    blankAdvance s = { s with blankCnt := (blankAdvance s).blankCnt, blankOut := (blankAdvance s).blankOut } := by
  unfold blankAdvance; split <;> rfl

/-- `NPC.COUNT` writes the low word and its overflow alone. -/
theorem npcCount_frame (s : State) :
    npcCount s = { s with pcLow := (npcCount s).pcLow, ovfPending := (npcCount s).ovfPending } := by
  unfold npcCount; repeat' split
  all_goals rfl

/-- `WEC.ADVANCE` writes the stages, the boundary and the blanker alone. -/
theorem wecAdvance_frame (len : Half) (s : State) :
    wecAdvance len s = { s with wcLow := (wecAdvance len s).wcLow, wcHigh := (wecAdvance len s).wcHigh,
                                bndPending := (wecAdvance len s).bndPending,
                                blankCnt := (wecAdvance len s).blankCnt, blankOut := (wecAdvance len s).blankOut } := by
  unfold wecAdvance; repeat' split
  all_goals rfl

/-- Everything `WEC.ADVANCE` can do (40_wide_event_counter.md R81). -/
theorem wecAdvance_cases (len : Half) (s : State) :
    (s.wcRun = false ∧ wecAdvance len s = s) ∨
    (s.wcRun = true ∧ lowAtTop s = false ∧ wecAdvance len s = { s with wcLow := s.wcLow + 1 }) ∨
    (s.wcRun = true ∧ lowAtTop s = true ∧ highAtTop s = false ∧
      wecAdvance len s = { s with wcLow := 0, wcHigh := s.wcHigh + 1 }) ∨
    (s.wcRun = true ∧ lowAtTop s = true ∧ highAtTop s = true ∧
      wecAdvance len s =
        { s with wcLow := 0, wcHigh := 0, bndPending := true, blankOut := true, blankCnt := len }) := by
  unfold wecAdvance
  cases s.wcRun <;> cases lowAtTop s <;> cases highAtTop s <;> simp [boundary, blankTrigger, Config.hasBlanker]

/-- A clock event: the pulse counter's part and the blanker's before the window counter's, each on elements of its own
(41_polarity_synchronizer.md R90). -/
theorem clockEvent_eq (len : Half) (c : Bool) (s : State) :
    clockEvent len c s =
      let b := blankAdvance s
      let p := if c == Config.activeLevel then npcCount s else s
      wecAdvance len { s with polQ := c, blankCnt := b.blankCnt, blankOut := b.blankOut, pcLow := p.pcLow,
                              ovfPending := p.ovfPending } := by
  unfold clockEvent blankAdvance npcCount
  dsimp only
  congr 1
  cases (c == Config.activeLevel) <;> cases hb : s.blankOut <;> cases hp : s.pcRun <;> simp [hb]
  all_goals (split <;> simp)

/-- A clock event leaves everything but the elements of 41_polarity_synchronizer.md R90 as it was. -/
theorem clockEvent_frame (len : Half) (c : Bool) (s : State) :
    clockEvent len c s =
      { s with polQ := (clockEvent len c s).polQ, blankCnt := (clockEvent len c s).blankCnt,
               blankOut := (clockEvent len c s).blankOut, pcLow := (clockEvent len c s).pcLow,
               ovfPending := (clockEvent len c s).ovfPending, wcLow := (clockEvent len c s).wcLow,
               wcHigh := (clockEvent len c s).wcHigh, bndPending := (clockEvent len c s).bndPending } := by
  rw [clockEvent_eq]
  dsimp only
  generalize blankAdvance s = b
  generalize (if c == Config.activeLevel then npcCount s else s) = p
  rw [wecAdvance_frame]

/-! ### Transitions of the state machine -/

/-- Everything the state machine can do at a boundary (44_measurement_sm.md R132 step 2). -/
theorem boundaryTransition_cases (s : State) :
    (s.status = .clean ∧ boundaryTransition s = s) ∨
    (s.status = .prevCharge ∧ boundaryTransition s =
      { s with negCounts := combine s.pcLow s.pcHigh, status := .negativeCounts }) ∨
    (s.status = .negativeCounts ∧ boundaryTransition s = seqError .dupBoundary s) ∨
    (s.status = .resultAvail ∧ boundaryTransition s = seqError .overrun s) := by
  unfold boundaryTransition
  cases h : s.status <;> simp

/-- Everything the state machine can do on a sample (44_measurement_sm.md R131). -/
theorem sampleTransition_cases (s : State) :
    (s.status = .clean ∧ sampleTransition s = { s with baseline := s.smpData, status := .prevCharge }) ∨
    (s.status = .prevCharge ∧ sampleTransition s = seqError .dupSample s) ∨
    (s.status = .negativeCounts ∧ sampleTransition s =
      { s with value := sampleDifference s.smpData s.baseline, baseline := s.smpData, status := .resultAvail }) ∨
    (s.status = .resultAvail ∧ sampleTransition s = seqError .overrun s) := by
  unfold sampleTransition
  cases h : s.status <;> simp

/-- What the rearm does around a boundary transition that reads neither run bit: the transition, then both counters at zero
with the boundary acknowledged and the run bits as on entry (44_measurement_sm.md R132). -/
theorem windowRearm_boundary (s : State) :
    windowRearm boundaryTransition s =
      { boundaryTransition s with
        pcLow := 0, pcHigh := 0, wcLow := 0, wcHigh := 0, bndPending := false, wcRun := s.wcRun, pcRun := s.pcRun } := by
  rcases boundaryTransition_cases s with ⟨h, he⟩ | ⟨h, he⟩ | ⟨h, he⟩ | ⟨h, he⟩ <;> rw [he] <;>
    simp [windowRearm, boundaryTransition, clearPulseCount, clearWindow, Config.lowInit, Config.highInit, seqError, h]

/-! ### Errors -/

/-- An error counted is never lost but at the top of the count (44_measurement_sm.md R134). -/
theorem saturatingSucc_toNat (n : Word) : (saturatingSucc n).toNat = min (n.toNat + 1) 0xFFFFFFFF := by
  unfold saturatingSucc
  by_cases h : n = 0xFFFFFFFF
  · subst h; rfl
  · have hn : n.toNat ≠ 0xFFFFFFFF := fun hc => h (BitVec.eq_of_toNat_eq hc)
    have := n.isLt
    have h1 : (1 : Word).toNat = 1 := rfl
    rw [if_neg h, BitVec.toNat_add, h1]
    omega

theorem saturatingSucc_ne_zero (n : Word) : saturatingSucc n ≠ 0 := by
  intro h
  have hn := saturatingSucc_toNat n
  have h0 : (0 : Word).toNat = 0 := rfl
  rw [h, h0] at hn
  omega

/-- A sequencing error always leaves a flag set. -/
theorem errorFlag_or_ne_zero (f : Bits3) (k : SequencingError) : f ||| errorFlag k ≠ 0 := by
  cases k <;> revert f <;> decide

end Sys2Proof.Machine
end

