-- ==== Sys2Proof/Laws/Exec.lean ====
section
/-! SUPPORT. The shape of every meaning: a host operation over its body, a handler step over its body, or an event that always
completes (60_exceptions.md R178). -/

namespace Sys2Proof.Machine

/-- Every host operation of the opcode table is a body under the main loop's condition. -/
theorem exec_host {i : Instr} (h : i.kind = .host) : ∃ body, ∀ s, exec i s = hostOperation body s := by
  cases i with
  | wcConfigure len div => exact ⟨_, fun _ => rfl⟩
  | wcStart => exact ⟨_, fun _ => rfl⟩
  | wcStop => exact ⟨_, fun _ => rfl⟩
  | wcReset => exact ⟨_, fun _ => rfl⟩
  | npcReset => exact ⟨_, fun _ => rfl⟩
  | npcStart => exact ⟨_, fun _ => rfl⟩
  | npcStop => exact ⟨_, fun _ => rfl⟩
  | npcRead => exact ⟨_, fun _ => rfl⟩
  | npcRdlo => exact ⟨_, fun _ => rfl⟩
  | npcRdhi => exact ⟨_, fun _ => rfl⟩
  | msmReset => exact ⟨_, fun _ => rfl⟩
  | msmStatus => exact ⟨_, fun _ => rfl⟩
  | msmTake now => exact ⟨_, fun _ => rfl⟩
  | msmErrors => exact ⟨_, fun _ => rfl⟩
  | pack a k j d => exact ⟨_, fun _ => rfl⟩
  | irqDefer m => exact ⟨_, fun _ => rfl⟩
  | irqResume m => exact ⟨_, fun _ => rfl⟩
  | sysReset | evTick c | evSample r | isrOvf | isrBnd | isrSmp => cases h

/-- Every handler step is a body under taking the interrupt of its source. -/
theorem exec_handler (x : Source) : ∃ body, ∀ s, exec x.handler s = takeInterrupt x body s := by
  cases x with
  | ovf => exact ⟨_, fun _ => rfl⟩
  | bnd => exact ⟨_, fun _ => rfl⟩
  | smp => exact ⟨_, fun _ => rfl⟩

/-- The stopped states from which `WC.START` is allowed (43_window_controller.md R121). -/
theorem freshlyReset_iff (s : State) :
    freshlyReset s = true ↔ s.winDiv ≠ 0 ∧ s.wcLow = 0 ∧ s.wcHigh = 0 ∧ s.bndPending = false := by
  simp [freshlyReset, Config.lowInit, Config.highInit, and_assoc]

/-- What an operation does when it completes: how the state after it is made from the state before, and from which
condition. -/
def Effect (i : Instr) (s t : State) : Prop :=
  match i with
  | .sysReset => t = { State.reset with
      baseline := Config.unspecifiedBaseline s.draws, negCounts := Config.unspecifiedNegCounts s.draws,
      value := Config.unspecifiedValue s.draws, smpData := Config.unspecifiedSmpData s.draws,
      draws := s.draws + 1, trace := s.trace, mode := s.mode }
  | .evTick c => t = (clockEvent Config.blankLen c s).silent
  | .evSample r => t = { s with smpData := r, smpPending := true, resp := none }
  | .isrOvf => nextHandler s = some .ovf ∧ s.pcHigh ≠ 0xFF ∧
      t = { s with pcHigh := s.pcHigh + 1, ovfPending := false, resp := none }
  | .isrBnd => nextHandler s = some .bnd ∧
      t = { boundaryTransition s with pcLow := 0, pcHigh := 0, wcLow := 0, wcHigh := 0, bndPending := false,
                                      wcRun := s.wcRun, pcRun := s.pcRun, resp := none }
  | .isrSmp => nextHandler s = some .smp ∧ t = { sampleTransition s with smpPending := false, resp := none }
  | .wcConfigure len div => nextHandler s = none ∧ s.wcRun = false ∧
      ((notDivisible len div = true ∧ t = s.ret .errNotDivisible) ∨
       (notDivisible len div = false ∧ windowTooShortOrLong len div = false ∧
        t = { s with winLen := len, winDiv := div, resp := some .ok }))
  | .wcStart => nextHandler s = none ∧
      ((s.wcRun = true ∧ t = s.ret .ok) ∨
       (s.wcRun = false ∧ freshlyReset s = true ∧ t = { s with wcRun := true, resp := some .ok }))
  | .wcStop => nextHandler s = none ∧ t = { s with wcRun := false, resp := some .ok }
  | .wcReset => nextHandler s = none ∧ s.wcRun = false ∧
      t = { s with wcLow := 0, wcHigh := 0, bndPending := false, resp := some .ok }
  | .npcReset => nextHandler s = none ∧ s.pcRun = false ∧ t = { s with pcLow := 0, pcHigh := 0, resp := some .ok }
  | .npcStart => nextHandler s = none ∧ t = { s with pcRun := true, resp := some .ok }
  | .npcStop => nextHandler s = none ∧ t = { s with pcRun := false, resp := some .ok }
  | .npcRead => nextHandler s = none ∧ t = s.ret (.u32 (combine s.pcLow s.pcHigh))
  | .npcRdlo => nextHandler s = none ∧ t = s.ret (.u16 s.pcLow)
  | .npcRdhi => nextHandler s = none ∧ t = s.ret (.u8 s.pcHigh)
  | .msmReset => nextHandler s = none ∧ t = { s with status := .clean, resp := some .ok }
  | .msmStatus => nextHandler s = none ∧ t = s.ret (.u8 ((statusCode s.status).setWidth 8))
  | .msmTake now => nextHandler s = none ∧
      ((s.status = .resultAvail ∧ t = { s with status := .clean, resp := some (.measurement now s.value s.negCounts) }) ∨
       (s.status ≠ .resultAvail ∧ t = s.ret .noResult))
  | .msmErrors => nextHandler s = none ∧ t = s.ret (.errors s.errCount (s.errFlags.setWidth 8))
  | .pack a k j d => nextHandler s = none ∧ ∃ r, packResult a k j d = some r ∧ t = s.ret (.u32 r)
  | .irqDefer m => nextHandler s = none ∧ t = { s with irqMask := s.irqMask ||| m, resp := some .ok }
  | .irqResume m => nextHandler s = none ∧ t = { s with irqMask := s.irqMask &&& ~~~m, resp := some .ok }

/-- The sample transition commutes with the acknowledge that comes before it. -/
theorem sampleTransition_ack (s : State) :
    sampleTransition { s with smpPending := false } = { sampleTransition s with smpPending := false } := by
  rcases sampleTransition_cases s with ⟨h, he⟩ | ⟨h, he⟩ | ⟨h, he⟩ | ⟨h, he⟩ <;> rw [he] <;>
    simp [sampleTransition, h, seqError]

/-- Once for all operations: if one completes, its effect is the one above. -/
theorem effect_of_exec {i : Instr} {s t : State} (h : exec i s = .next t) : Effect i s t := by
  cases i with
  | sysReset => cases h; rfl
  | evTick c => cases h; rfl
  | evSample r => cases h; rfl
  | isrOvf =>
    simp only [exec, execIsrOvf] at h
    obtain ⟨hn, h⟩ := takeInterrupt_next h
    split at h
    · cases h
    · next hh => exact ⟨hn, hh, (returnFromHandler_next _ _).mp h⟩
  | isrBnd =>
    simp only [exec, execIsrBnd] at h
    obtain ⟨hn, h⟩ := takeInterrupt_next h
    rw [windowRearm_boundary, returnFromHandler_next] at h
    exact ⟨hn, h⟩
  | isrSmp =>
    simp only [exec, execIsrSmp] at h
    obtain ⟨hn, h⟩ := takeInterrupt_next h
    rw [sampleTransition_ack, returnFromHandler_next] at h
    exact ⟨hn, h⟩
  | wcConfigure len div =>
    simp only [exec, execWcConfigure] at h
    obtain ⟨hn, h⟩ := hostOperation_next h
    cases hw : s.wcRun <;> cases hd : notDivisible len div <;> cases hl : windowTooShortOrLong len div <;>
      simp only [hw, hd, hl, if_true, if_false, completes_next, reduceCtorEq, Bool.false_eq_true] at h <;>
      subst h <;> simp [Effect, hn, hw, hd, hl, State.ret]
  | wcStart =>
    simp only [exec, execWcStart] at h
    obtain ⟨hn, h⟩ := hostOperation_next h
    cases hw : s.wcRun <;> cases hf : freshlyReset s <;>
      simp only [hw, hf, if_true, if_false, completes_next, reduceCtorEq, Bool.false_eq_true] at h <;>
      subst h <;> simp [Effect, hn, hw, hf, State.ret]
  | wcStop =>
    simp only [exec, execWcStop] at h
    obtain ⟨hn, h⟩ := hostOperation_next h
    exact ⟨hn, (completes_next _ _ _ _).mp h⟩
  | wcReset =>
    simp only [exec, execWcReset] at h
    obtain ⟨hn, h⟩ := hostOperation_next h
    cases hw : s.wcRun <;>
      simp only [hw, if_true, if_false, completes_next, reduceCtorEq, Bool.false_eq_true] at h
    exact ⟨hn, hw, h⟩
  | npcReset =>
    simp only [exec, execNpcReset] at h
    obtain ⟨hn, h⟩ := hostOperation_next h
    cases hp : s.pcRun <;>
      simp only [hp, if_true, if_false, completes_next, reduceCtorEq, Bool.false_eq_true] at h
    exact ⟨hn, hp, h⟩
  | npcStart =>
    simp only [exec, execNpcStart] at h
    obtain ⟨hn, h⟩ := hostOperation_next h
    exact ⟨hn, (completes_next _ _ _ _).mp h⟩
  | npcStop =>
    simp only [exec, execNpcStop] at h
    obtain ⟨hn, h⟩ := hostOperation_next h
    exact ⟨hn, (completes_next _ _ _ _).mp h⟩
  | npcRead =>
    simp only [exec, execNpcRead] at h
    obtain ⟨hn, h⟩ := hostOperation_next h
    exact ⟨hn, (completes_next _ _ _ _).mp h⟩
  | npcRdlo =>
    simp only [exec, execNpcRdlo] at h
    obtain ⟨hn, h⟩ := hostOperation_next h
    exact ⟨hn, (completes_next _ _ _ _).mp h⟩
  | npcRdhi =>
    simp only [exec, execNpcRdhi] at h
    obtain ⟨hn, h⟩ := hostOperation_next h
    exact ⟨hn, (completes_next _ _ _ _).mp h⟩
  | msmReset =>
    simp only [exec, execMsmReset] at h
    obtain ⟨hn, h⟩ := hostOperation_next h
    exact ⟨hn, (completes_next _ _ _ _).mp h⟩
  | msmStatus =>
    simp only [exec, execMsmStatus] at h
    obtain ⟨hn, h⟩ := hostOperation_next h
    exact ⟨hn, (completes_next _ _ _ _).mp h⟩
  | msmTake now =>
    simp only [exec, execMsmTake] at h
    obtain ⟨hn, h⟩ := hostOperation_next h
    by_cases hs : s.status = .resultAvail
    · rw [if_pos hs, completes_next] at h
      exact ⟨hn, .inl ⟨hs, h⟩⟩
    · rw [if_neg hs, completes_next] at h
      exact ⟨hn, .inr ⟨hs, h⟩⟩
  | msmErrors =>
    simp only [exec, execMsmErrors] at h
    obtain ⟨hn, h⟩ := hostOperation_next h
    exact ⟨hn, (completes_next _ _ _ _).mp h⟩
  | pack a k j d =>
    simp only [exec, execPack] at h
    obtain ⟨hn, h⟩ := hostOperation_next h
    cases hr : packResult a k j d with
    | none => simp [hr] at h
    | some r => exact ⟨hn, r, hr, by simpa [hr] using h⟩
  | irqDefer m =>
    simp only [exec, execIrqDefer] at h
    obtain ⟨hn, h⟩ := hostOperation_next h
    exact ⟨hn, (completes_next _ _ _ _).mp h⟩
  | irqResume m =>
    simp only [exec, execIrqResume] at h
    obtain ⟨hn, h⟩ := hostOperation_next h
    exact ⟨hn, (completes_next _ _ _ _).mp h⟩

end Sys2Proof.Machine
end

