-- ==== Sys2Proof/Laws/PerInstr.lean ====
section
/-! SUPPORT. Facts of every operation as syntax, one lemma per constructor: the length of its word. -/

namespace Sys2Proof.Laws.WordLength

/-- The word of an operation is as long as its format says (30_encoding.md R62, R63). -/
def Statement (i : Instr) : Prop := (encode i).length = i.format.bytes

theorem sysReset : Statement .sysReset := rfl

theorem evTick (c : Bool) : Statement (.evTick c) := rfl

theorem evSample (s : Half) : Statement (.evSample s) := rfl

theorem isrOvf : Statement .isrOvf := rfl

theorem isrBnd : Statement .isrBnd := rfl

theorem isrSmp : Statement .isrSmp := rfl

theorem wcConfigure (len : Word) (div : Half) : Statement (.wcConfigure len div) := rfl

theorem wcStart : Statement .wcStart := rfl

theorem wcStop : Statement .wcStop := rfl

theorem wcReset : Statement .wcReset := rfl

theorem npcReset : Statement .npcReset := rfl

theorem npcStart : Statement .npcStart := rfl

theorem npcStop : Statement .npcStop := rfl

theorem npcRead : Statement .npcRead := rfl

theorem npcRdlo : Statement .npcRdlo := rfl

theorem npcRdhi : Statement .npcRdhi := rfl

theorem msmReset : Statement .msmReset := rfl

theorem msmStatus : Statement .msmStatus := rfl

theorem msmTake (now : Word) : Statement (.msmTake now) := rfl

theorem msmErrors : Statement .msmErrors := rfl

theorem pack (i : Word) (k : Half) (j : Word) (d : Half) : Statement (.pack i k j d) := rfl

theorem irqDefer (m : Bits3) : Statement (.irqDefer m) := rfl

theorem irqResume (m : Bits3) : Statement (.irqResume m) := rfl

end Sys2Proof.Laws.WordLength
end

