-- ==== Sys2Proof/Laws/Step.lean ====
section
/-! SUPPORT. What a step can do, once; runs of steps and of operations; and that no operation looks at the trace or its mode. -/

namespace Sys2Proof.Machine

/-- The listed operation is taken off the trace and nothing else is changed. -/
theorem listedOperation_ok {s u : State} {i : Instr} (h : listedOperation s = .ok (i, u)) :
    ∃ rest, decode s.trace = .ok (i, rest) ∧ s.mode.admits i = true ∧ u = s.withTrace rest := by
  unfold listedOperation at h
  split at h
  · cases h
  · next j rest hd =>
    split at h
    · next ha =>
      cases h
      exact ⟨rest, hd, ha, rfl⟩
    · cases h

/-- Everything that can come next: in prompt mode an enabled handler with the trace as it is; otherwise the operation listed
next, one the mode admits, with its word taken off (60_exceptions.md R182). -/
theorem nextOperation_ok {s u : State} {i : Instr} (h : nextOperation s = .ok (i, u)) :
    (∃ x, s.mode = .prompt ∧ nextHandler s = some x ∧ i = x.handler ∧ u = s) ∨
    (∃ rest, decode s.trace = .ok (i, rest) ∧ s.mode.admits i = true ∧ u = s.withTrace rest) := by
  unfold nextOperation at h
  split at h
  · exact .inr (listedOperation_ok h)
  · next hm =>
    split at h
    · next x hx =>
      cases h
      exact .inl ⟨x, hm, hx, rfl, rfl⟩
    · exact .inr (listedOperation_ok h)

/-- If a step answers a next state, it is an operation that came next, and that operation answered it. -/
theorem step_next {s t : State} (h : step s = .next t) :
    ∃ i u, nextOperation s = .ok (i, u) ∧ exec i u = .next t := by
  unfold step at h
  split at h
  · next i u hn => exact ⟨i, u, hn, h⟩
  · cases h

/-! ### Runs -/

@[simp] theorem runSteps_zero (s : State) : runSteps 0 s = .next s := rfl

/-- A run goes on from the state its first step leads to. -/
theorem runSteps_succ {s t : State} (k : Nat) (h : step s = .next t) : runSteps (k + 1) s = runSteps k t := by
  simp [runSteps, h]

/-- A run of one more step that answers a next state is a step and the run from there. -/
theorem runSteps_succ_next {s t : State} {k : Nat} (h : runSteps (k + 1) s = .next t) :
    ∃ u, step s = .next u ∧ runSteps k u = .next t := by
  unfold runSteps at h
  split at h
  · next u hu => exact ⟨u, hu, h⟩
  · cases h
  · cases h

theorem run_next (M : Host.Core) {k : Nat} {s t : M.State} (h : M.step s = .next t) : M.run (k + 1) s = M.run k t := by
  simp [Host.Core.run, h]

theorem run_fault (M : Host.Core) {k : Nat} {s : M.State} {r : M.Fault} (h : M.step s = .fault r) :
    M.run (k + 1) s = .fault r := by
  simp [Host.Core.run, h]

theorem run_refused (M : Host.Core) {k : Nat} {s : M.State} {r : M.Refusal} (h : M.step s = .refused r) :
    M.run (k + 1) s = .refused r := by
  simp [Host.Core.run, h]

/-- The run of the statements is the run of the host's interface. -/
theorem core_run_eq (k : Nat) (s : State) : Sys2Proof.core.run k s = runSteps k s := by
  induction k generalizing s with
  | zero => rfl
  | succ k ih =>
    cases h : step s with
    | next t => exact (run_next Sys2Proof.core h).trans ((ih t).trans (runSteps_succ k h).symm)
    | fault r =>
      have hr : runSteps (k + 1) s = .fault r := by simp [runSteps, h]
      exact (run_fault Sys2Proof.core h).trans hr.symm
    | refused r =>
      have hr : runSteps (k + 1) s = .refused r := by simp [runSteps, h]
      exact (run_refused Sys2Proof.core h).trans hr.symm

/-- A run in two parts. -/
theorem runSteps_add {s t : State} {k : Nat} (n : Nat) (h : runSteps k s = .next t) :
    runSteps (k + n) s = runSteps n t := by
  induction k generalizing s with
  | zero => cases h; rw [Nat.zero_add]
  | succ k ih =>
    obtain ⟨u, hu, hr⟩ := runSteps_succ_next h
    rw [Nat.succ_add, runSteps_succ _ hu]
    exact ih hr

/-- The handler steps of the pending sources, written out in priority order. -/
theorem staleHandlers_eq (s : State) : staleHandlers s =
    (if s.ovfPending then [.isrOvf] else []) ++ (if s.bndPending then [.isrBnd] else []) ++
      (if s.smpPending then [.isrSmp] else []) := by
  cases ho : s.ovfPending <;> cases hb : s.bndPending <;> cases hs : s.smpPending <;>
    simp [staleHandlers, irqPriority, pending, ho, hb, hs, Source.handler]

/-- Operations performed one after another go on from the state the first leads to. -/
theorem execAll_cons {i : Instr} {s t : State} (is : List Instr) (h : exec i s = .next t) :
    execAll (i :: is) s = execAll is t := by
  simp [execAll, h]

/-! ### The trace and its mode are not the block's -/

/-- The state under another trace and mode. -/
def State.under (m : TraceMode) (bs : List Byte) (s : State) : State := { s with mode := m, trace := bs }

/-- The outcome under another trace and mode. -/
def outcomeUnder (m : TraceMode) (bs : List Byte) : Host.Outcome State Fault Refusal → Host.Outcome State Fault Refusal
  | .next t => .next (t.under m bs)
  | .fault r => .fault r
  | .refused r => .refused r

theorem nextHandler_under (m : TraceMode) (bs : List Byte) (s : State) : nextHandler (s.under m bs) = nextHandler s := rfl

theorem enabled_under (x : Source) (m : TraceMode) (bs : List Byte) (s : State) :
    enabled x (s.under m bs) = enabled x s := rfl

theorem hostOperation_under {body : State → Host.Outcome State Fault Refusal} {m : TraceMode} {bs : List Byte} {s : State}
    (h : body (s.under m bs) = outcomeUnder m bs (body s)) :
    hostOperation body (s.under m bs) = outcomeUnder m bs (hostOperation body s) := by
  unfold hostOperation
  rw [nextHandler_under]
  cases nextHandler s
  · exact h
  · rfl

theorem takeInterrupt_under {x : Source} {body : State → Host.Outcome State Fault Refusal} {m : TraceMode}
    {bs : List Byte} {s : State} (h : body (s.under m bs) = outcomeUnder m bs (body s)) :
    takeInterrupt x body (s.under m bs) = outcomeUnder m bs (takeInterrupt x body s) := by
  unfold takeInterrupt
  rw [nextHandler_under, enabled_under]
  split
  · rfl
  · split
    · rfl
    · exact h

theorem blankAdvance_under (m : TraceMode) (bs : List Byte) (s : State) :
    blankAdvance (s.under m bs) = (blankAdvance s).under m bs := by
  by_cases h : s.blankOut = true
  · rw [blankAdvance, if_pos (show (s.under m bs).blankOut = true from h), blankAdvance, if_pos h]
    rfl
  · rw [blankAdvance, if_neg (show ¬(s.under m bs).blankOut = true from h), blankAdvance, if_neg h]

theorem npcCount_under (m : TraceMode) (bs : List Byte) (s : State) :
    npcCount (s.under m bs) = (npcCount s).under m bs := by
  by_cases h : s.pcRun = true
  · rw [npcCount, if_pos (show (s.under m bs).pcRun = true from h), npcCount, if_pos h]
    by_cases hl : s.pcLow = 0xFFFF
    · rw [if_pos (show (s.under m bs).pcLow = 0xFFFF from hl), if_pos hl]
      rfl
    · rw [if_neg (show ¬(s.under m bs).pcLow = 0xFFFF from hl), if_neg hl]
      rfl
  · rw [npcCount, if_neg (show ¬(s.under m bs).pcRun = true from h), npcCount, if_neg h]

theorem wecAdvance_under (len : Half) (m : TraceMode) (bs : List Byte) (s : State) :
    wecAdvance len (s.under m bs) = (wecAdvance len s).under m bs := by
  have hl : lowAtTop (s.under m bs) = lowAtTop s := rfl
  have hh : highAtTop (s.under m bs) = highAtTop s := rfl
  have hr : (s.under m bs).wcRun = s.wcRun := rfl
  rcases wecAdvance_cases len (s.under m bs) with ⟨h0, he⟩ | ⟨h0, h1, he⟩ | ⟨h0, h1, h2, he⟩ | ⟨h0, h1, h2, he⟩ <;>
    rw [he]
  · rw [hr] at h0
    simp [wecAdvance, h0]
  · rw [hr] at h0
    rw [hl] at h1
    simp [wecAdvance, h0, h1, State.under]
  · rw [hr] at h0
    rw [hl] at h1
    rw [hh] at h2
    simp [wecAdvance, h0, h1, h2, State.under]
  · rw [hr] at h0
    rw [hl] at h1
    rw [hh] at h2
    simp [wecAdvance, h0, h1, h2, State.under, boundary, blankTrigger, Config.hasBlanker]

/-- A clock event reads neither the trace nor its mode. -/
theorem clockEvent_under (len : Half) (c : Bool) (m : TraceMode) (bs : List Byte) (s : State) :
    clockEvent len c (s.under m bs) = (clockEvent len c s).under m bs := by
  have key : ∀ u : State, clockEvent len c u = wecAdvance len
      (if c == Config.activeLevel then npcCount (blankAdvance { u with polQ := c })
       else blankAdvance { u with polQ := c }) := fun _ => rfl
  have hu : { s.under m bs with polQ := c } = State.under m bs { s with polQ := c } := rfl
  rw [key, key, hu, blankAdvance_under, npcCount_under]
  cases c == Config.activeLevel
  · exact wecAdvance_under len m bs _
  · exact wecAdvance_under len m bs _

/-- The meaning of an operation reads neither the trace nor its mode, and leaves both as they are. -/
theorem exec_under (i : Instr) (m : TraceMode) (bs : List Byte) (s : State) :
    exec i (s.under m bs) = outcomeUnder m bs (exec i s) := by
  cases i with
  | sysReset => rfl
  | evTick c =>
    simp only [exec, execEvTick, outcomeUnder]
    rw [show clockEvent Config.blankLen c (s.under m bs) = (clockEvent Config.blankLen c s).under m bs from
      clockEvent_under _ c m bs s]
    rfl
  | evSample r => rfl
  | isrOvf =>
    simp only [exec, execIsrOvf]
    refine takeInterrupt_under ?_
    dsimp only [State.under]
    split <;> rfl
  | isrBnd =>
    simp only [exec, execIsrBnd]
    refine takeInterrupt_under ?_
    rw [windowRearm_boundary, windowRearm_boundary]
    unfold boundaryTransition
    dsimp only [State.under]
    split <;> rfl
  | isrSmp =>
    simp only [exec, execIsrSmp]
    refine takeInterrupt_under ?_
    unfold sampleTransition
    dsimp only [State.under]
    split <;> rfl
  | wcConfigure len div =>
    simp only [exec, execWcConfigure]
    refine hostOperation_under ?_
    dsimp only [State.under]
    repeat' split
    all_goals rfl
  | wcStart =>
    simp only [exec, execWcStart]
    refine hostOperation_under ?_
    rw [show freshlyReset (s.under m bs) = freshlyReset s from rfl, show (s.under m bs).wcRun = s.wcRun from rfl]
    cases s.wcRun <;> cases freshlyReset s <;> rfl
  | wcReset | npcReset | msmTake now =>
    simp only [exec, execWcReset, execNpcReset, execMsmTake]
    refine hostOperation_under ?_
    dsimp only [State.under]
    split <;> rfl
  | pack a k j d =>
    simp only [exec, execPack]
    refine hostOperation_under ?_
    cases packResult a k j d <;> rfl
  | wcStop | npcStart | npcStop | npcRead | npcRdlo | npcRdhi | msmReset | msmStatus | msmErrors | irqDefer m
  | irqResume m =>
    simp only [exec, execWcStop, execNpcStart, execNpcStop, execNpcRead, execNpcRdlo, execNpcRdhi, execMsmReset,
      execMsmStatus, execMsmErrors, execIrqDefer, execIrqResume]
    exact hostOperation_under rfl

/-- An operation that completes leaves the trace and its mode as they are; the step has taken the word off before. -/
theorem exec_keeps_trace {i : Instr} {s t : State} (h : exec i s = .next t) : t.trace = s.trace ∧ t.mode = s.mode := by
  have hu := exec_under i s.mode s.trace s
  rw [show s.under s.mode s.trace = s from rfl, h] at hu
  have ht : t = t.under s.mode s.trace := by injection hu
  rw [ht]
  exact ⟨rfl, rfl⟩

end Sys2Proof.Machine
end

