-- ==== Sys2Proof/Machine/Assembler.lean ====
section
/-! DEFINITION. The written form of traces (30_encoding.md R66): "one operation per line: the mnemonic of rule R63, then its
operands separated by commas"; numbers decimal, `0x` hexadecimal or `0b` binary; `;` starts a comment; `xN` repeats. Lines
are lists of characters. Log entry 17. -/

namespace Sys2Proof.Machine

/-- The mnemonic of an operation (30_encoding.md R63). -/
def mnemonicOf : Instr → String
  | .sysReset => "SYS.RESET"
  | .evTick _ => "EV.TICK"
  | .evSample _ => "EV.SAMPLE"
  | .isrOvf => "ISR.OVF"
  | .isrBnd => "ISR.BND"
  | .isrSmp => "ISR.SMP"
  | .wcConfigure _ _ => "WC.CONFIGURE"
  | .wcStart => "WC.START"
  | .wcStop => "WC.STOP"
  | .wcReset => "WC.RESET"
  | .npcReset => "NPC.RESET"
  | .npcStart => "NPC.START"
  | .npcStop => "NPC.STOP"
  | .npcRead => "NPC.READ"
  | .npcRdlo => "NPC.RDLO"
  | .npcRdhi => "NPC.RDHI"
  | .msmReset => "MSM.RESET"
  | .msmStatus => "MSM.STATUS"
  | .msmTake _ => "MSM.TAKE"
  | .msmErrors => "MSM.ERRORS"
  | .pack _ _ _ _ => "PACK"
  | .irqDefer _ => "IRQ.DEFER"
  | .irqResume _ => "IRQ.RESUME"

/-- The operands of an operation as numbers, in the order of 30_encoding.md R63's mnemonic column; `s` is signed (R64). -/
def operandsOf : Instr → List Int
  | .evTick c => [if c then 1 else 0]
  | .evSample s => [s.toInt]
  | .wcConfigure len div => [len.toNat, div.toNat]
  | .msmTake now => [now.toNat]
  | .pack i k j d => [i.toNat, k.toNat, j.toNat, d.toNat]
  | .irqDefer m => [m.toNat]
  | .irqResume m => [m.toNat]
  | .sysReset | .isrOvf | .isrBnd | .isrSmp => []
  | .wcStart | .wcStop | .wcReset => []
  | .npcReset | .npcStart | .npcStop | .npcRead | .npcRdlo | .npcRdhi => []
  | .msmReset | .msmStatus | .msmErrors => []

/-- The operation written on a line of its own (30_encoding.md R66). -/
def written (i : Instr) : String :=
  match operandsOf i with
  | [] => mnemonicOf i
  | os => mnemonicOf i ++ " " ++ ", ".intercalate (os.map toString)

/-- The number as an unsigned operand of `w` bits; none where it does not fit its type (30_encoding.md R64). -/
def unsignedOperand (w : Nat) (v : Int) : Option (BitVec w) :=
  if 0 ≤ v ∧ v < 2 ^ w then some (BitVec.ofInt w v) else none

/-- The number as the signed 16-bit operand `s` (30_encoding.md R64). -/
def signedOperand (v : Int) : Option Half :=
  if -32768 ≤ v ∧ v ≤ 32767 then some (BitVec.ofInt 16 v) else none

/-- The operation of a mnemonic and its operands (30_encoding.md R63, R64). -/
def operationOf (mnemonic : List Char) (operands : List Int) : Option Instr :=
  let is (name : String) : Bool := mnemonic == name.toList
  match operands with
  | [] =>
    if is "SYS.RESET" then some .sysReset
    else if is "ISR.OVF" then some .isrOvf
    else if is "ISR.BND" then some .isrBnd
    else if is "ISR.SMP" then some .isrSmp
    else if is "WC.START" then some .wcStart
    else if is "WC.STOP" then some .wcStop
    else if is "WC.RESET" then some .wcReset
    else if is "NPC.RESET" then some .npcReset
    else if is "NPC.START" then some .npcStart
    else if is "NPC.STOP" then some .npcStop
    else if is "NPC.READ" then some .npcRead
    else if is "NPC.RDLO" then some .npcRdlo
    else if is "NPC.RDHI" then some .npcRdhi
    else if is "MSM.RESET" then some .msmReset
    else if is "MSM.STATUS" then some .msmStatus
    else if is "MSM.ERRORS" then some .msmErrors
    else none
  | [a] =>
    if is "EV.TICK" then (unsignedOperand 1 a).map (fun c => .evTick (c.getLsbD 0))
    else if is "EV.SAMPLE" then (signedOperand a).map .evSample
    else if is "MSM.TAKE" then (unsignedOperand 32 a).map .msmTake
    else if is "IRQ.DEFER" then (unsignedOperand 3 a).map .irqDefer
    else if is "IRQ.RESUME" then (unsignedOperand 3 a).map .irqResume
    else none
  | [a, b] =>
    if is "WC.CONFIGURE" then
      (unsignedOperand 32 a).bind fun len => (unsignedOperand 16 b).map fun div => .wcConfigure len div
    else none
  | [a, b, c, d] =>
    if is "PACK" then
      (unsignedOperand 32 a).bind fun i => (unsignedOperand 16 b).bind fun k =>
        (unsignedOperand 32 c).bind fun j => (unsignedOperand 16 d).map fun d => .pack i k j d
    else none
  | _ => none

/-- The value of a digit in a base of at most 16. -/
def digitValue (base : Nat) (c : Char) : Option Nat :=
  let n := c.toNat
  let v := if 48 ≤ n ∧ n ≤ 57 then n - 48
    else if 65 ≤ n ∧ n ≤ 70 then n - 55
    else if 97 ≤ n ∧ n ≤ 102 then n - 87
    else 16
  if v < base then some v else none

/-- Digits read in a base, the more significant first, onto a value read so far. -/
def digitsFrom (base : Nat) : Nat → List Char → Option Nat
  | acc, [] => some acc
  | acc, c :: cs =>
    match digitValue base c with
    | some v => digitsFrom base (acc * base + v) cs
    | none => none

/-- A number without a sign: "decimal, `0x` hexadecimal or `0b` binary" (30_encoding.md R66). -/
def parseNat : List Char → Option Nat
  | [] => none
  | '0' :: 'x' :: c :: cs => digitsFrom 16 0 (c :: cs)
  | '0' :: 'b' :: c :: cs => digitsFrom 2 0 (c :: cs)
  | cs => digitsFrom 10 0 cs

/-- A number that may carry a minus sign; only `s` has a range that takes one (30_encoding.md R66). -/
def parseInt : List Char → Option Int
  | '-' :: cs => (parseNat cs).map fun n => -(n : Int)
  | cs => (parseNat cs).map fun n => (n : Int)

/-- A list cut at every character that satisfies `p`, those characters dropped. -/
def cutAt (p : Char → Bool) : List Char → List (List Char)
  | [] => [[]]
  | c :: cs =>
    match cutAt p cs with
    | [] => [[c]]
    | piece :: pieces => if p c then [] :: piece :: pieces else (c :: piece) :: pieces

/-- White space within a line. -/
def isBlank (c : Char) : Bool := c == ' ' || c == '\t'

/-- The pieces of a line between white space. -/
def wordsOf (cs : List Char) : List (List Char) := (cutAt isBlank cs).filter (· ≠ [])

/-- The repetition `xN` at the end of an operation's words, if there is one, and the words before it (30_encoding.md R66). -/
def repetitionOf : List (List Char) → Option (List (List Char) × Nat)
  | [] => some ([], 1)
  | ['x' :: cs] => (parseNat cs).map fun n => ([], n)
  | w :: ws => (repetitionOf ws).map fun (before, n) => (w :: before, n)

/-- The operands written in the words after the mnemonic: separated by commas, each one number (30_encoding.md R66). -/
def parseOperands : List (List Char) → Option (List Int)
  | [] => some []
  | ws =>
    let pieces := cutAt (· == ',') (ws.flatMap (fun w => w ++ [' ']))
    pieces.mapM fun piece =>
      match wordsOf piece with
      | [w] => parseInt w
      | _ => none

/-- The operations of one line: none of them for an empty line or a comment, `N` copies for a repetition; refused (`none`)
where the line is not of the form of 30_encoding.md R66. -/
def parseLine (line : List Char) : Option (List Instr) :=
  match wordsOf (line.takeWhile (· ≠ ';')) with
  | [] => some []
  | mnemonic :: ws => do
    let (operandWords, n) ← repetitionOf ws
    let operands ← parseOperands operandWords
    let i ← operationOf mnemonic operands
    return List.replicate n i

/-- The operations of a written trace, a line at a time (30_encoding.md R66). -/
def parseTrace (text : List Char) : Option (List Instr) :=
  ((cutAt (· == '\n') text).mapM parseLine).map List.flatten

end Sys2Proof.Machine
end

