-- ==== Sys2Proof/Tests/Slice0.lean ====
section
/-! SUPPORT. Tests of the model against the vectors of 95_test_vectors.md (parts named in each comment), and one witness for
every statement of Certificates/Slice0/Obligations.lean that has hypotheses. -/

namespace Sys2Proof.Tests

open Sys2Proof Sys2Proof.Machine

/-! ### Helpers -/

/-- The operation completes and the state after it satisfies the test. -/
def leadsTo (i : Instr) (s : State) (p : State → Bool) : Bool :=
  match exec i s with
  | .next t => p t
  | .fault _ => false
  | .refused _ => false

/-- The reason the operation is refused; none where it completes. -/
def refusalOfExec (i : Instr) (s : State) : Option Refusal :=
  match exec i s with
  | .refused r => some r
  | .next _ => none
  | .fault _ => none

/-- RESET with no source deferred. -/
def open0 : State := { State.reset with irqMask := 0 }

/-- A window of 6 events in sub-cycles of 2, both counters running, at the given place, nothing deferred. -/
def running (high low : Half) : State :=
  { open0 with winLen := 6, winDiv := 2, wcHigh := high, wcLow := low, wcRun := true, pcRun := true }

/-- A window of 1500 events in sub-cycles of 50, stopped at zero. -/
def configured : State := { open0 with winLen := 1500, winDiv := 50 }

/-- The columns of B2 after a clock event with `BLANK_LEN = 2`. -/
def columns (s : State) : List Nat :=
  let t := clockEvent 2 false s
  [t.wcHigh.toNat, t.wcLow.toNat, t.bndPending.toNat, t.blankOut.toNat, t.blankCnt.toNat]

/-! ### Well-formedness: the one check of the syntax, and what it refuses (60_exceptions.md R182) -/

theorem test_prompt_trace_refuses_isrOvf : TraceMode.prompt.admits .isrOvf = false := by decide
theorem test_prompt_trace_refuses_isrBnd : TraceMode.prompt.admitsAll [.evTick true, .isrBnd] = false := by decide
theorem test_prompt_trace_refuses_isrSmp : TraceMode.prompt.admitsAll [.evSample 5, .isrSmp] = false := by decide
theorem test_prompt_trace_admits : TraceMode.prompt.admitsAll [.sysReset, .evTick true, .npcRead] = true := by decide
theorem test_explicit_trace_admits : TraceMode.explicit.admitsAll [.evTick true, .isrBnd] = true := by decide
theorem test_every_operand_legal : (Instr.wcConfigure 0 0).wellFormed = true := by decide

/-! ### Decoding: words written out from 30_encoding.md R62 and R63 (vectors of R70 and part B1) -/

theorem test_decode_sysReset : decode [0x00] = .ok (.sysReset, []) := by decide
theorem test_decode_evTick : decode [0x02] = .ok (.evTick false, []) ∧ decode [0x03] = .ok (.evTick true, []) := by decide
theorem test_decode_evSample : decode [0x04, 0x00, 0x80] = .ok (.evSample (BitVec.ofInt 16 (-32768)), []) ∧
    decode [0x04, 0xFF, 0x7F] = .ok (.evSample 32767, []) := by decide
theorem test_decode_isrOvf : decode [0x08] = .ok (.isrOvf, []) := by decide
theorem test_decode_isrBnd : decode [0x09] = .ok (.isrBnd, []) := by decide
theorem test_decode_isrSmp : decode [0x0A] = .ok (.isrSmp, []) := by decide
theorem test_decode_wcConfigure :
    decode [0x10, 0xB0, 0x71, 0x0B, 0x00, 0x32, 0x00] = .ok (.wcConfigure 750000 50, []) := by decide
theorem test_decode_wcStart : decode [0x11] = .ok (.wcStart, []) := by decide
theorem test_decode_wcStop : decode [0x12] = .ok (.wcStop, []) := by decide
theorem test_decode_wcReset : decode [0x13] = .ok (.wcReset, []) := by decide
theorem test_decode_npcReset : decode [0x20] = .ok (.npcReset, []) := by decide
theorem test_decode_npcStart : decode [0x21] = .ok (.npcStart, []) := by decide
theorem test_decode_npcStop : decode [0x22] = .ok (.npcStop, []) := by decide
theorem test_decode_npcRead : decode [0x23] = .ok (.npcRead, []) := by decide
theorem test_decode_npcRdlo : decode [0x24] = .ok (.npcRdlo, []) := by decide
theorem test_decode_npcRdhi : decode [0x25] = .ok (.npcRdhi, []) := by decide
theorem test_decode_msmReset : decode [0x30] = .ok (.msmReset, []) := by decide
theorem test_decode_msmStatus : decode [0x31] = .ok (.msmStatus, []) := by decide
theorem test_decode_msmTake : decode [0x32, 0xD2, 0x04, 0x00, 0x00] = .ok (.msmTake 1234, []) := by decide
theorem test_decode_msmErrors : decode [0x33] = .ok (.msmErrors, []) := by decide
theorem test_decode_pack :
    decode [0x40, 0xF4, 0x01, 0x00, 0x00, 0xDC, 0x05, 0xE8, 0x03, 0x00, 0x00, 0xB8, 0x0B] =
      .ok (.pack 500 1500 1000 3000, []) := by decide
theorem test_decode_irqDefer :
    decode [0x50] = .ok (.irqDefer 0, []) ∧ decode [0x57] = .ok (.irqDefer 0b111, []) := by decide
theorem test_decode_irqResume :
    decode [0x58] = .ok (.irqResume 0, []) ∧ decode [0x5F] = .ok (.irqResume 0b111, []) := by decide
theorem test_decode_illegal : [0x01, 0x05, 0x0B, 0x14, 0x26, 0x34, 0x41, 0x60, 0xFF].all
    (fun b => decide (decode [b] = .error (.illegalByte0 b))) = true := by decide
theorem test_decode_truncated : decode [0x32, 0xD2, 0x04] = .error (.truncatedWord 0x32) := by decide
theorem test_decode_trace :
    decodeTrace [0x03, 0x03, 0x5F] = .ok [.evTick true, .evTick true, .irqResume 0b111] := by decide
/-- The bits of a row of the opcode table, numbered from the least significant bit of byte 0. -/
theorem test_table_word : decodeTableWord 24 0xFFD804 = some (.evSample (BitVec.ofInt 16 (-40))) ∧
    decodeTableWord 8 0x10 = some (.wcConfigure 0 0) ∧ decodeTableWord 8 0x01 = none := by decide
/-- A word placed by the fetch is performed by the next step. -/
theorem test_fetch_word : (∃ t, step (State.reset.withFetchWord 8 0x59) = .next t ∧ t.irqMask = 0b110) :=
  ⟨_, rfl, by decide⟩

/-! ### The written form, results and pseudo-operations (30_encoding.md R66 to R68, part B1) -/

theorem test_written : parseLine "EV.SAMPLE -40 ; a comment".toList = some [.evSample (BitVec.ofInt 16 (-40))] ∧
    parseLine "PACK 500, 1500, 0x3E8, 3000".toList = some [.pack 500 1500 1000 3000] ∧
    parseLine "EV.TICK 1 x3".toList = some [.evTick true, .evTick true, .evTick true] ∧
    parseLine "IRQ.DEFER 0b1000".toList = none := by decide
theorem test_responses : Response.bytes (.u8 3) = [0x10, 0x03] ∧ Response.bytes (.u16 5) = [0x11, 0x05, 0x00] ∧
    Response.bytes (.u32 196613) = [0x12, 0x05, 0x00, 0x03, 0x00] ∧
    Response.bytes (.measurement 1234 (BitVec.ofInt 32 (-140)) 4) =
      [0x13, 0xD2, 0x04, 0x00, 0x00, 0x74, 0xFF, 0xFF, 0xFF, 0x04, 0x00, 0x00, 0x00] ∧
    Response.bytes (.errors 3 0b110) = [0x14, 0x03, 0x00, 0x00, 0x00, 0x06] := by decide
theorem test_acqArm_bytes : Pseudo.encode (.acqArm 6 2) =
    [0x5F, 0x12, 0x22, 0x10, 0x06, 0x00, 0x00, 0x00, 0x02, 0x00, 0x13, 0x20, 0x30, 0x21, 0x11] := by decide
theorem test_readProtocol_bytes : Pseudo.encode .readProtocol = [0x51, 0x24, 0x25, 0x59] := by decide

/-! ### Environment events (parts B2, B3, B6, B8) -/

theorem test_sysReset : leadsTo .sysReset { running 2 1 with errCount := 3, errFlags := 0b110, ovfPending := true }
    (fun t => t.winLen == 0 && t.wcRun == false && t.errCount == 0 && t.irqMask == 0b111 && t.ovfPending == false) = true := by
  decide
/-- B2, the rows with a window of 6, 2. -/
theorem test_evTick_window : columns (running 0 0) = [0, 1, 0, 0, 0] ∧
    columns (running 0 1) = [1, 0, 0, 0, 0] ∧ columns (running 2 1) = [0, 0, 1, 1, 2] ∧
    columns { running 0 1 with blankOut := true, blankCnt := 1 } = [1, 0, 0, 0, 0] ∧
    columns { running 0 0 with winLen := 1, winDiv := 1, blankOut := true, blankCnt := 2 } = [0, 0, 1, 1, 2] ∧
    columns { running 65535 0 with winLen := 65536, winDiv := 1 } = [0, 0, 1, 1, 2] := by decide
/-- B3. -/
theorem test_evTick_pulses :
    leadsTo (.evTick true) { open0 with pcRun := true, pcLow := 7 } (fun t => t.polQ && t.pcLow == 8 && !t.ovfPending) = true ∧
    leadsTo (.evTick false) { open0 with pcRun := true, pcLow := 7 } (fun t => !t.polQ && t.pcLow == 7) = true ∧
    leadsTo (.evTick true) { open0 with pcRun := true, pcLow := 0xFFFF } (fun t => t.pcLow == 0 && t.ovfPending) = true := by
  decide
/-- B6, last row: the reading 5 is lost. -/
theorem test_evSample : leadsTo (.evSample 9) { State.reset with smpPending := true, smpData := 5 }
    (fun t => t.smpData == 9 && t.smpPending && t.errCount == 0) = true := by decide

/-! ### Handler steps (parts B4, B6) -/

theorem test_isrOvf : leadsTo .isrOvf { open0 with pcHigh := 2, ovfPending := true }
    (fun t => t.pcHigh == 3 && !t.ovfPending) = true := by decide
theorem test_isrOvf_refused :
    refusalOfExec .isrOvf { open0 with pcHigh := 0xFF, ovfPending := true } = some .highByteOverflow ∧
    refusalOfExec .isrOvf open0 = some .handlerNotEnabled := by decide
theorem test_isrBnd_captures :
    leadsTo .isrBnd { running 0 3 with bndPending := true, pcHigh := 1, pcLow := 2, status := .prevCharge }
      (fun t => t.status == .negativeCounts && t.negCounts == 65538 && t.pcLow == 0 && t.pcHigh == 0 && t.wcLow == 0 &&
        !t.bndPending && t.wcRun && t.pcRun) = true := by decide
theorem test_isrBnd_duplicate :
    leadsTo .isrBnd { running 0 3 with bndPending := true, wcRun := false, status := .negativeCounts, errCount := 0xFFFFFFFF }
      (fun t => t.status == .negativeCounts && t.errCount == 0xFFFFFFFF && t.errFlags == 0b010 && !t.wcRun && t.pcRun) =
        true := by decide
theorem test_isrSmp_difference :
    leadsTo .isrSmp { open0 with smpPending := true, status := .negativeCounts, baseline := 32767,
                                 smpData := BitVec.ofInt 16 (-32768) }
      (fun t => t.status == .resultAvail && t.value == BitVec.ofInt 32 (-65535) && t.baseline == 0x8000) = true := by decide
theorem test_isrSmp_errors :
    leadsTo .isrSmp { open0 with smpPending := true, status := .prevCharge, baseline := 100, smpData := 200 }
      (fun t => t.status == .prevCharge && t.baseline == 100 && t.errCount == 1 && t.errFlags == 0b001) = true ∧
    leadsTo .isrSmp { open0 with smpPending := true, status := .resultAvail, baseline := 7, smpData := 11 }
      (fun t => t.status == .resultAvail && t.baseline == 7 && t.errCount == 1 && t.errFlags == 0b100) = true := by decide

/-! ### Window Controller (part B5) -/

theorem test_wcConfigure :
    leadsTo (.wcConfigure 65536 1) configured (fun t => t.winLen == 65536 && t.winDiv == 1 && t.resp == some .ok) = true ∧
    leadsTo (.wcConfigure 0 0) configured (fun t => t.winLen == 1500 && t.resp == some .errNotDivisible) = true ∧
    leadsTo (.wcConfigure 40 50) configured (fun t => t.winLen == 1500 && t.resp == some .errNotDivisible) = true := by decide
theorem test_wcConfigure_refused :
    refusalOfExec (.wcConfigure 65537 1) configured = some .windowOutOfRange ∧
    refusalOfExec (.wcConfigure 0 5) configured = some .windowOutOfRange ∧
    refusalOfExec (.wcConfigure 100 50) (running 0 0) = some .configureWhileRunning := by decide
theorem test_wcStart : leadsTo .wcStart configured (fun t => t.wcRun) = true ∧
    leadsTo .wcStart (running 1 1) (fun t => t.wcRun && t.wcLow == 1) = true := by decide
theorem test_wcStart_refused : refusalOfExec .wcStart State.reset = some .startNotFreshlyReset ∧
    refusalOfExec .wcStart { configured with wcLow := 3 } = some .startNotFreshlyReset ∧
    refusalOfExec .wcStart { configured with bndPending := true, irqMask := 0b010 } = some .startNotFreshlyReset := by decide
theorem test_wcStop : leadsTo .wcStop (running 1 1) (fun t => !t.wcRun && t.wcHigh == 1 && t.wcLow == 1) = true := by decide
theorem test_wcReset :
    leadsTo .wcReset { configured with wcHigh := 1, wcLow := 1, bndPending := true, irqMask := 0b010 }
      (fun t => t.wcHigh == 0 && t.wcLow == 0 && !t.bndPending) = true ∧
    refusalOfExec .wcReset (running 0 0) = some .windowResetWhileRunning := by decide

/-! ### Negative-Pulse Counter (part B4) -/

theorem test_npcReset : leadsTo .npcReset { State.reset with pcLow := 0x1234, pcHigh := 3, ovfPending := true }
      (fun t => t.pcLow == 0 && t.pcHigh == 0 && t.ovfPending) = true ∧
    refusalOfExec .npcReset (running 0 0) = some .pulseResetWhileCounting := by decide
theorem test_npcStart : leadsTo .npcStart { open0 with pcLow := 9 } (fun t => t.pcRun && t.pcLow == 9) = true := by decide
theorem test_npcStop : leadsTo .npcStop { open0 with pcRun := true, pcLow := 9 } (fun t => !t.pcRun && t.pcLow == 9) =
    true := by decide
theorem test_npcRead :
    leadsTo .npcRead { open0 with pcHigh := 3, pcLow := 5 } (fun t => t.resp == some (.u32 196613)) = true ∧
    leadsTo .npcRead { open0 with pcHigh := 0xFF, pcLow := 0xFFFF } (fun t => t.resp == some (.u32 16777215)) = true := by
  decide
theorem test_npcRdlo : leadsTo .npcRdlo { open0 with pcHigh := 3, pcLow := 5 } (fun t => t.resp == some (.u16 5)) = true := by
  decide
theorem test_npcRdhi : leadsTo .npcRdhi { open0 with pcHigh := 3, pcLow := 5 } (fun t => t.resp == some (.u8 3)) = true := by
  decide

/-! ### Measurement State Machine (part B6) -/

/-- RESULT_AVAIL with the result of program P1. -/
def available : State := { open0 with status := .resultAvail, value := BitVec.ofInt 32 (-140), negCounts := 4 }

theorem test_msmTake :
    leadsTo (.msmTake 1234) available
      (fun t => t.resp == some (.measurement 1234 (BitVec.ofInt 32 (-140)) 4) && t.status == .clean && t.negCounts == 4) =
        true ∧
    leadsTo (.msmTake 1234) { available with status := .negativeCounts }
      (fun t => t.resp == some .noResult && t.status == .negativeCounts) = true := by decide
theorem test_msmStatus : leadsTo .msmStatus { open0 with status := .negativeCounts }
    (fun t => t.resp == some (.u8 2) && t.status == .negativeCounts) = true := by decide
theorem test_msmReset :
    leadsTo .msmReset { open0 with status := .negativeCounts, errCount := 3, errFlags := 0b110 }
      (fun t => t.status == .clean && t.errCount == 3 && t.errFlags == 0b110) = true := by decide
theorem test_msmErrors : leadsTo .msmErrors { open0 with errCount := 3, errFlags := 0b110 }
    (fun t => t.resp == some (.errors 3 6) && t.errCount == 3) = true := by decide

/-! ### Fixed-Point Packer (part B7, as corrected in 90_conflicts.md C5 and C6) -/

theorem test_pack_quotients : packResult 999 2999 1000 3000 = some 0xFFFFFA68 ∧
    packResult 500 1500 1000 3000 = some 0x8020C49C ∧ packResult 0 1 1000 3000 = some 1432 ∧
    packResult 749999 4093 750000 4094 = some 0xFFFFFFFF ∧ packResult 0 2 1 3 = some 0xAAAAAAAB ∧
    packResult 5 0 4294967295 1 = some 5 := by decide
theorem test_pack_edges : packResult 1000 0 1000 3000 = some 0xFFFFFFFF ∧ packResult 0 0 0 0 = some 0xFFFFFFFF ∧
    refusalOfExec (.pack 0 1 1048576 4096) open0 = some .packOutOfDomain ∧
    refusalOfExec (.pack 1 0 4294967295 65535) open0 = some .packOutOfDomain := by decide

/-! ### Deferral and dispatch (part B8) -/

theorem test_irqDefer : leadsTo (.irqDefer 0b100) { open0 with irqMask := 0b001 } (fun t => t.irqMask == 0b101) = true ∧
    leadsTo (.irqDefer 0b001) { open0 with irqMask := 0b101 } (fun t => t.irqMask == 0b101) = true := by decide
theorem test_irqResume : leadsTo (.irqResume 0b001) { open0 with irqMask := 0b101 } (fun t => t.irqMask == 0b100) = true ∧
    leadsTo (.irqResume 0) { open0 with irqMask := 0b010 } (fun t => t.irqMask == 0b010) = true := by decide
theorem test_dispatch :
    nextHandler { open0 with ovfPending := true, bndPending := true, smpPending := true } = some .ovf ∧
    nextHandler { open0 with bndPending := true, smpPending := true } = some .bnd ∧
    nextHandler { open0 with smpPending := true } = some .smp ∧
    nextHandler { open0 with ovfPending := true, bndPending := true, irqMask := 0b001 } = some .bnd ∧
    nextHandler { State.reset with ovfPending := true, bndPending := true, smpPending := true } = none := by decide

/-! ### Witnesses: for each statement with hypotheses, a state and operands that meet them together -/

/-- The same state, its trace run in prompt mode. -/
def prompted (s : State) (bs : List Byte) : State := { s with mode := .prompt, trace := bs }

/-- All three sources pending and deferred, both counters running in the middle of a window. -/
def stale : State := { running 2 1 with
  ovfPending := true, bndPending := true, smpPending := true, irqMask := 0b111, status := .resultAvail, pcLow := 7 }

theorem running_inv {high low : Half} (h : low.toNat < 2) (h' : high.toNat < 3) : Inv (running high low) :=
  have h3 : subPerWin (running high low) = 3 := show subPerWin (running 0 0) = 3 by decide
  have hd : (2 : Half) ≠ 0 := by decide
  { config := .inr ⟨hd, show (6 : Word) ≠ 0 by decide, show (6 : Word).toNat % (2 : Half).toNat = 0 by decide,
      by rw [h3]; decide, by rw [h3]; decide⟩
    configured := fun _ => hd
    stages := fun _ => ⟨h, by rw [h3]; exact h'⟩
    blanker := ⟨⟨fun _ => rfl, fun _ => rfl⟩, Nat.zero_le _⟩
    errors := ⟨fun _ => rfl, fun _ => rfl⟩ }

theorem witness_DecodedBytesAreTheEncoding : decode [0x32, 0xD2, 0x04, 0x00, 0x00, 0x33] = .ok (.msmTake 1234, [0x33]) := by
  decide
theorem witness_WordCutShortIsInvalid :
    (0 < 1 ∧ 1 < (encode (.evSample 5)).length) ∧ (0 < 12 ∧ 12 < (encode (.pack 500 1500 1000 3000)).length) := by decide
theorem witness_ResponseBytesDetermineTheResult :
    (Response.u16 5).bytes = (Response.u16 5).bytes ∧ open0.resp = none ∧
      { open0 with resp := some .ok }.resp = some .ok ∧
      ((∃ t, exec .npcRead open0 = .next t) ∧ Instr.npcRead.kind = .host) ∧
      (∃ t, exec .isrSmp { open0 with resp := some .ok, smpPending := true } = .next t) ∧ Instr.isrSmp.kind ≠ .host :=
  ⟨rfl, rfl, rfl, ⟨⟨_, rfl⟩, rfl⟩, ⟨_, rfl⟩, by decide⟩
theorem witness_ExplicitStepPerformsTheListedOperation :
    let s := { open0 with trace := [0x51, 0x23] }
    s.mode = .explicit ∧ decode s.trace = .ok (.irqDefer 1, [0x23]) := by decide
theorem witness_PromptStepServesHandlersFirst :
    let s := prompted { open0 with bndPending := true } [0x03]
    let t := prompted open0 [0x03, 0x23]
    let u := prompted open0 [0x09]
    (s.mode = .prompt ∧ nextHandler s = some .bnd) ∧
    (t.mode = .prompt ∧ nextHandler t = none ∧ decode t.trace = .ok (.evTick true, [0x23]) ∧
      (Instr.evTick true).kind ≠ .handlerStep) ∧
    (u.mode = .prompt ∧ nextHandler u = none ∧ decode u.trace = .ok (.isrBnd, []) ∧
      Instr.isrBnd.kind = .handlerStep) := by decide
theorem witness_InvalidTraceIsRefused :
    let s (bs : List Byte) := prompted { open0 with ovfPending := true, irqMask := 0b001 } bs
    (open0.mode = .explicit ∧ open0.trace = []) ∧ ((s []).mode = .prompt ∧ nextHandler (s []) = none ∧ (s []).trace = []) ∧
    (nextHandler (s [0x01, 0x03]) = none ∧ decode (s [0x01, 0x03]).trace = .error (.illegalByte0 0x01)) ∧
    (nextHandler (s [0x32, 0xD2]) = none ∧ decode (s [0x32, 0xD2]).trace = .error (.truncatedWord 0x32)) := by decide
theorem witness_TableWordIsPerformedNext : decodeTableWord 8 0x51 = some (.irqDefer 1) := by decide
theorem witness_HandlerStepNeedsItsTurn :
    enabled .bnd open0 = false ∧
    (let s := { open0 with ovfPending := true, bndPending := true }
     enabled .bnd s = true ∧ enabled .ovf s = true ∧ sourceNumber .ovf < sourceNumber .bnd) := by decide
theorem witness_HostOperationWaitsForHandlers :
    Instr.npcRead.kind = .host ∧ enabled .smp { open0 with smpPending := true } = true := by decide
theorem witness_EnvironmentEventsAreAlwaysPossible :
    Instr.sysReset.kind = .event ∧ (Instr.evTick true).kind = .event ∧ (Instr.evSample 5).kind = .event := by decide
theorem witness_PromptRunIsAnExplicitRun :
    (prompted { open0 with smpPending := true } [0x23]).mode = .prompt ∧
    ∃ t, runSteps 2 (prompted { open0 with smpPending := true } [0x23]) = .next t := ⟨rfl, _, rfl⟩
theorem witness_EveryStepKeepsTheInvariants :
    Inv { running 2 1 with trace := [0x03] } ∧ ∃ t, step { running 2 1 with trace := [0x03] } = .next t :=
  ⟨have h := running_inv (high := 2) (low := 1) (by decide) (by decide)
   ⟨h.config, h.configured, h.stages, h.blanker, h.errors⟩, _, rfl⟩
theorem witness_OnlyListedOperationsWriteAnElement :
    (∃ t, exec (.evTick true) (running 2 1) = .next t) ∧ Element.pcHigh.mayWrite (.evTick true) = false := ⟨⟨_, rfl⟩, rfl⟩
theorem witness_OnlyListedOperationsReadAnElement :
    Element.value.mayRead .npcRead = false ∧ AgreeBut .value open0 { open0 with value := 7 } ∧
    (∃ t, exec .npcRead open0 = .next t) ∧
    Element.value.mayRead .npcReset = false ∧ AgreeBut .value (running 0 0) { running 0 0 with value := 7 } ∧
    (∃ r, exec .npcReset (running 0 0) = .refused r) := by
  refine ⟨rfl, ⟨?_, rfl, rfl, rfl, rfl⟩, ⟨_, rfl⟩, rfl, ⟨?_, rfl, rfl, rfl, rfl⟩, ⟨_, rfl⟩⟩
  all_goals
    intro e he
    cases e <;> first | rfl | exact absurd rfl he
theorem witness_UnspecifiedDataIsNeverObserved :
    (LiveEq { open0 with trace := [0x23] } { open0 with trace := [0x23], value := 7, smpData := 9 } ∧
      ∃ t, step { open0 with trace := [0x23] } = .next t) ∧
    (LiveEq open0 { open0 with value := 7, smpData := 9 } ∧ ∃ r, step open0 = .refused r) :=
  ⟨⟨⟨rfl, by decide, by decide, by decide, by decide⟩, _, rfl⟩, ⟨rfl, by decide, by decide, by decide, by decide⟩, _, rfl⟩
theorem witness_StatusMovesOnlyAlongTheTable :
    ∃ t, exec .isrSmp { open0 with smpPending := true } = .next t ∧ open0.status ≠ t.status := ⟨_, rfl, by decide⟩
theorem witness_ErrorRecordOnlyGrows :
    ∃ t, exec .isrSmp { open0 with smpPending := true, status := .resultAvail } = .next t ∧ Instr.isrSmp ≠ .sysReset :=
  ⟨_, rfl, by decide⟩
theorem witness_HighByteIsOnlyIncrementedOrZeroed :
    ∃ t, exec .isrOvf { open0 with ovfPending := true } = .next t ∧ open0.pcHigh ≠ t.pcHigh := ⟨_, rfl, by decide⟩
theorem witness_EvTickCountsAGatedPulse :
    let s := { open0 with pcRun := true, pcLow := 0xFFFE }
    let t := { open0 with pcRun := true, pcLow := 0xFFFF }
    (s.pcRun = true ∧ true = Config.activeLevel ∧ s.pcLow ≠ 0xFFFF) ∧
    (t.pcRun = true ∧ true = Config.activeLevel ∧ t.pcLow = 0xFFFF) ∧
    open0.pcRun = false ∧ (s.pcRun = true ∧ false ≠ Config.activeLevel) := by decide
theorem witness_EvTickAdvancesThePosition :
    (Inv (running 2 1) ∧ (running 2 1).wcRun = true ∧ position (running 2 1) + 1 = (running 2 1).winLen.toNat) ∧
    (Inv (running 2 0) ∧ (running 2 0).wcRun = true) ∧ (Inv State.reset ∧ State.reset.wcRun = false) :=
  ⟨⟨running_inv (by decide) (by decide), by decide⟩, ⟨running_inv (by decide) (by decide), by decide⟩,
   ⟨.inl (by decide), by decide, fun h => absurd h (by decide), ⟨by decide, Nat.zero_le _⟩, by decide⟩, rfl⟩
theorem witness_EvTickDrivesTheBlanker :
    let s := { running 2 0 with blankOut := true, blankCnt := 1 }
    ((running 2 1).wcRun = true ∧ atLastEvent (running 2 1)) ∧
    (¬ atLastEvent s ∧ s.blankOut = true) ∧ (¬ atLastEvent (running 2 0) ∧ (running 2 0).blankOut = false) ∧
    (State.reset.wcRun = false ∧ State.reset.blankOut = false) := by decide
theorem witness_TicksGiveThePositionModuloTheLength : Inv (running 0 0) ∧ (running 0 0).wcRun = true :=
  ⟨running_inv (by decide) (by decide), rfl⟩
theorem witness_BlankerStaysAssertedForItsCount :
    Inv (running 0 0) ∧
      ((running 0 0).wcRun = true → position (running 0 0) + [true, false, true, true, true].length < (running 0 0).winLen.toNat) :=
  ⟨running_inv (by decide) (by decide), by decide⟩
theorem witness_IsrOvfIncrementsTheHighByte :
    let s := { open0 with ovfPending := true, pcHigh := 0xFE }
    let t := { open0 with ovfPending := true, pcHigh := 0xFF }
    (s.ovfPending = true ∧ s.irqMask.getLsbD 0 = false ∧ s.pcHigh ≠ 0xFF) ∧
    (t.ovfPending = true ∧ t.irqMask.getLsbD 0 = false ∧ t.pcHigh = 0xFF) ∧
    open0.ovfPending = false ∧ { s with irqMask := 0b001 }.irqMask.getLsbD 0 = true := by decide
theorem witness_PromptReadCountsEveryActiveTick :
    let cs := [true, false, true]
    let bs := encodeTrace (ticks cs ++ [.npcRead])
    let s := { prompted (running 2 1) bs with irqMask := 0b010, pcLow := 0xFFFF, pcHigh := 0xFE }
    let t := prompted (running 0 0) bs
    (s.mode = .prompt ∧ hostMayAct s ∧ s.irqMask.getLsbD 0 = false ∧ s.pcRun = true ∧
      (s.wcRun = true ∧ s.irqMask.getLsbD 1 = true) ∧ pulseCount s + activeTicks cs < 2 ^ 24 ∧ s.trace = bs) ∧
    (t.mode = .prompt ∧ hostMayAct t ∧ t.irqMask.getLsbD 0 = false ∧ t.pcRun = true ∧
      (Inv t ∧ position t + cs.length < t.winLen.toNat) ∧ pulseCount t + activeTicks cs < 2 ^ 24 ∧ t.trace = bs) :=
  have h := running_inv (high := 0) (low := 0) (by decide) (by decide)
  ⟨by decide, by decide, by decide, by decide, by decide, ⟨⟨h.config, h.configured, h.stages, h.blanker, h.errors⟩, by decide⟩,
   by decide, by decide⟩
theorem witness_IsrSmpFollowsTheTable :
    let at_ (m : MeasurementStatus) := { open0 with smpPending := true, status := m }
    (nextHandler (at_ .clean) = some .smp ∧ (at_ .clean).status = .clean) ∧
    (nextHandler (at_ .prevCharge) = some .smp ∧ (at_ .prevCharge).status = .prevCharge) ∧
    (nextHandler (at_ .negativeCounts) = some .smp ∧ (at_ .negativeCounts).status = .negativeCounts) ∧
    (nextHandler (at_ .resultAvail) = some .smp ∧ (at_ .resultAvail).status = .resultAvail) ∧
    open0.smpPending = false ∧ State.reset.irqMask.getLsbD 2 = true := by decide
theorem witness_IsrBndFollowsTheTable :
    let at_ (m : MeasurementStatus) := { running 0 3 with bndPending := true, status := m }
    (nextHandler (at_ .clean) = some .bnd ∧ (at_ .clean).status = .clean) ∧
    (nextHandler (at_ .prevCharge) = some .bnd ∧ (at_ .prevCharge).status = .prevCharge) ∧
    (nextHandler (at_ .negativeCounts) = some .bnd ∧ (at_ .negativeCounts).status = .negativeCounts) ∧
    (nextHandler (at_ .resultAvail) = some .bnd ∧ (at_ .resultAvail).status = .resultAvail) ∧
    open0.bndPending = false ∧ State.reset.irqMask.getLsbD 1 = true := by decide
theorem witness_OverflowIsServedBeforeTheBoundary :
    let s (high : Byte) :=
      prompted { running 0 0 with ovfPending := true, bndPending := true, status := .prevCharge, pcHigh := high } []
    ((s 0xFE).mode = .prompt ∧ enabled .ovf (s 0xFE) = true ∧ enabled .bnd (s 0xFE) = true ∧
      (s 0xFE).status = .prevCharge ∧ (s 0xFE).pcHigh ≠ 0xFF) ∧
    (enabled .ovf (s 0xFF) = true ∧ enabled .bnd (s 0xFF) = true ∧ (s 0xFF).pcHigh = 0xFF) := by decide
theorem witness_BoundaryIsServedBeforeTheSample :
    let s (ovf : Bool) := prompted { running 0 0 with
      ovfPending := ovf, bndPending := true, smpPending := true, status := .prevCharge, pcHigh := 0xFE } []
    (∀ ovf, (s ovf).mode = .prompt ∧ enabled .bnd (s ovf) = true ∧ enabled .smp (s ovf) = true ∧
      (s ovf).status = .prevCharge ∧ (s ovf).pcHigh ≠ 0xFF) ∧
    enabled .ovf (s false) = false ∧ enabled .ovf (s true) = true := by decide
theorem witness_WindowCapturesItsActiveTicks :
    let cs := [true, false, true, true, false, true]
    let s := { prompted (running 0 0) (encodeTrace (ticks cs) ++ [0x33]) with status := .prevCharge }
    Inv s ∧ s.mode = .prompt ∧ s.irqMask = 0 ∧ nothingPending s ∧ s.wcRun = true ∧ s.pcRun = true ∧ position s = 0 ∧
      pulseCount s = 0 ∧ s.status = .prevCharge ∧ cs.length = s.winLen.toNat ∧ s.winLen.toNat < 2 ^ 24 ∧
      s.trace = encodeTrace (ticks cs) ++ [0x33] :=
  have h := running_inv (high := 0) (low := 0) (by decide) (by decide)
  ⟨⟨h.config, h.configured, h.stages, h.blanker, h.errors⟩, by decide⟩
theorem witness_WcConfigureValidatesThenStores :
    hostMayAct (running 0 0) ∧ (running 0 0).wcRun = true ∧ hostMayAct configured ∧ configured.wcRun = false ∧
    ((0 : Half) = 0 ∨ (1500 : Word).toNat % (0 : Half).toNat ≠ 0) ∧
    ((50 : Half) = 0 ∨ (1510 : Word).toNat % (50 : Half).toNat ≠ 0) ∧
    ((5 : Half) ≠ 0 ∧ (0 : Word).toNat % (5 : Half).toNat = 0) ∧
    ((1 : Half) ≠ 0 ∧ (65537 : Word).toNat % (1 : Half).toNat = 0 ∧ 65536 < (65537 : Word).toNat / (1 : Half).toNat) ∧
    ((1 : Half) ≠ 0 ∧ (65536 : Word).toNat % (1 : Half).toNat = 0 ∧ (65536 : Word) ≠ 0 ∧
      (65536 : Word).toNat / (1 : Half).toNat ≤ 65536) := by decide
theorem witness_WcStartNeedsAFreshReset :
    let s := { configured with wcLow := 3 }
    (hostMayAct (running 0 0) ∧ (running 0 0).wcRun = true) ∧
    (hostMayAct configured ∧ configured.wcRun = false ∧
      (configured.winDiv ≠ 0 ∧ configured.wcLow = 0 ∧ configured.wcHigh = 0 ∧ configured.bndPending = false)) ∧
    (hostMayAct s ∧ s.wcRun = false ∧ ¬ (s.winDiv ≠ 0 ∧ s.wcLow = 0 ∧ s.wcHigh = 0 ∧ s.bndPending = false)) := by decide
theorem witness_WcStopKeepsTheResidue : hostMayAct (running 1 1) := by decide
theorem witness_WcResetClearsStagesAndBoundary :
    (hostMayAct configured ∧ configured.wcRun = false) ∧ (hostMayAct (running 0 0) ∧ (running 0 0).wcRun = true) := by decide
theorem witness_NpcStartAndStopSwitchCounting : hostMayAct (running 0 0) := by decide
theorem witness_NpcResetClearsBothParts :
    (hostMayAct configured ∧ configured.pcRun = false) ∧ (hostMayAct (running 0 0) ∧ (running 0 0).pcRun = true) := by decide
theorem witness_PulseReadsReturnTheirParts :
    let s := { open0 with pcHigh := 0xFF, pcLow := 0xFFFF }
    let t := { open0 with pcHigh := 1, ovfPending := true, irqMask := 0b001 }
    (hostMayAct s ∧ s.irqMask.getLsbD 0 = false ∧ s.ovfPending = false) ∧ (hostMayAct t ∧ t.ovfPending = true) := by decide
theorem witness_SplitReadIsTornWithoutDeferral :
    let s := { running 2 0 with pcLow := 0xFFFF, pcHigh := 0xFE }
    let t := { running 2 1 with pcLow := 0xFFFF, pcHigh := 0xFE, irqMask := 0b011 }
    (hostMayAct s ∧ s.pcRun = true ∧ s.pcLow = 0xFFFF ∧ (s.wcRun = true ∧ ¬ atLastEvent s) ∧
      s.irqMask.getLsbD 0 = false ∧ s.pcHigh ≠ 0xFF) ∧
    (hostMayAct t ∧ t.pcRun = true ∧ t.pcLow = 0xFFFF ∧ (t.wcRun = true ∧ atLastEvent t ∧ t.irqMask.getLsbD 1 = true) ∧
      t.irqMask.getLsbD 0 = true) := by decide
theorem witness_StatusAndErrorsAreRead :
    (hostMayAct { open0 with status := .clean }) ∧ (hostMayAct { open0 with status := .prevCharge }) ∧
    (hostMayAct { open0 with status := .negativeCounts }) ∧ hostMayAct { open0 with status := .resultAvail } := by decide
theorem witness_MsmTakeHandsOffOnce :
    (hostMayAct available ∧ available.status = .resultAvail) ∧ (hostMayAct open0 ∧ open0.status ≠ .resultAvail) := by decide
theorem witness_MsmResetClearsOnlyTheStatus : hostMayAct available := by decide
theorem witness_SampleBoundarySampleMeasures :
    let bs := encodeTrace [.evSample 1000, .evTick true, .evSample 2000] ++ [0x33]
    let s := prompted (running 2 1) bs
    s.mode = .prompt ∧ s.irqMask = 0 ∧ nothingPending s ∧ s.status = .clean ∧ s.wcRun = true ∧ atLastEvent s ∧
      s.pcLow ≠ 0xFFFF ∧ s.trace = bs := by decide
theorem witness_PackReturnsTheRoundedQuotient :
    hostMayAct open0 ∧ packDenom 1000 3000 ≤ packNumer 1000 0 3000 ∧
    (packNumer 0 1 65535 < packDenom 65537 65535 ∧ packDenom 65537 65535 < 2 ^ 32) ∧
    (packNumer 0 1 4096 < packDenom 1048576 4096 ∧ 2 ^ 32 ≤ packDenom 1048576 4096) := by decide
theorem witness_PackRoundsToTheNearest :
    hostMayAct open0 ∧
    (749999 : Word).toNat * (4094 : Half).toNat + (4093 : Half).toNat < (750000 : Word).toNat * (4094 : Half).toNat ∧
    (750000 : Word).toNat * (4094 : Half).toNat < 2 ^ 32 := by decide
theorem witness_PackIsMonotone :
    (0 : Word).toNat ≤ (1 : Word).toNat ∧ (1 : Half).toNat ≤ (2 : Half).toNat ∧
    (∃ t, exec (.pack 0 1 1000 3000) open0 = .next t ∧ t.resp = some (.u32 1432)) ∧
    ∃ t, exec (.pack 1 2 1000 3000) open0 = .next t ∧ t.resp = some (.u32 4297831) :=
  ⟨by decide, by decide, ⟨_, rfl, rfl⟩, _, rfl, rfl⟩
theorem witness_PackCompletesWithinItsPreconditions :
    hostMayAct open0 ∧ (750000 : Word).toNat ≤ Config.maxLen ∧ (4094 : Half).toNat ≤ Config.dMax ∧
      (4093 : Half).toNat < (4094 : Half).toNat ∧ (749999 : Word).toNat < (750000 : Word).toNat ∧
      (750000 : Word).toNat ≤ (750000 : Word).toNat := by decide
theorem witness_DeferAndResumeSetTheMask :
    hostMayAct { State.reset with smpPending := true } ∧ (0b101 : Bits3).getLsbD (sourceNumber .smp) = true := by decide
theorem witness_AcqArmStartsAnAcquisition :
    let bs := (Pseudo.acqArm 65536 1).encode ++ [0x03]
    let s (high : Byte) := prompted { stale with pcHigh := high } bs
    (s 0xFE).mode = .prompt ∧ hostMayAct (s 0xFE) ∧ (1 : Half) ≠ 0 ∧ (65536 : Word) ≠ 0 ∧
      (65536 : Word).toNat % (1 : Half).toNat = 0 ∧ (65536 : Word).toNat / (1 : Half).toNat ≤ 65536 ∧
      (s 0xFE).trace = bs ∧ (s 0xFE).pcHigh ≠ 0xFF ∧ hostMayAct (s 0xFF) ∧ (s 0xFF).ovfPending = true := by decide
theorem witness_AcqArmStopsOnNotDivisible :
    let s (len : Word) (div : Half) := prompted stale ((Pseudo.acqArm len div).encode ++ [0x03])
    ((s 1510 50).mode = .prompt ∧ hostMayAct (s 1510 50) ∧ (1510 : Word).toNat % (50 : Half).toNat ≠ 0 ∧
      (s 1510 50).pcHigh ≠ 0xFF ∧ (s 1510 50).trace = (Pseudo.acqArm 1510 50).encode ++ [0x03]) ∧
    ((s 0 0).mode = .prompt ∧ hostMayAct (s 0 0) ∧ (s 0 0).trace = (Pseudo.acqArm 0 0).encode ++ [0x03]) := by decide
theorem witness_BlankerFollowsTheWindows :
    let s := { running 0 0 with blankOut := true, blankCnt := Config.blankLen }
    Inv s ∧ s.wcRun = true ∧ position s = 0 ∧ s.blankOut = true ∧ s.blankCnt = Config.blankLen :=
  have h := running_inv (high := 0) (low := 0) (by decide) (by decide)
  ⟨⟨h.config, h.configured, h.stages, ⟨⟨(fun h => nomatch h), fun h => absurd h blankLen_ne_zero⟩, Nat.le_refl _⟩, h.errors⟩,
   rfl, by decide, rfl, rfl⟩

end Sys2Proof.Tests
end

section
/-! PROOFS. The state as a whole: its reset values, what each operation writes and reads, the error record, and the
invariants of 10_state.md R35. -/

namespace Sys2Proof.Machine

/-! ### The state after reset (10_state.md R10) -/

/-- Settles O17: at reset no window is configured, nothing runs, the blanker and the error record are clear. -/
theorem resetSatisfiesTheInvariants : Obligations.ResetSatisfiesTheInvariants where
  config := .inl ⟨rfl, rfl⟩
  configured := nofun
  stages := nofun
  blanker := ⟨⟨fun _ => rfl, fun _ => rfl⟩, Nat.zero_le _⟩
  errors := ⟨fun _ => rfl, fun _ => rfl⟩

/-- Settles O19, element by element of the reset column. -/
theorem resetColumnHoldsAtReset : Obligations.ResetColumnHoldsAtReset := by
  unfold Obligations.ResetColumnHoldsAtReset
  exact ⟨⟨rfl, rfl, rfl, rfl, rfl, rfl⟩, ⟨rfl, rfl, rfl⟩, ⟨rfl, rfl, rfl, rfl⟩, rfl, rfl, rfl, rfl, rfl⟩

/-! ### What an operation writes (10_state.md R34) -/

/-- The transition at a boundary writes the captured count, the status and the error record alone. -/
theorem boundaryTransition_frame (s : State) :
    boundaryTransition s =
      { s with negCounts := (boundaryTransition s).negCounts, status := (boundaryTransition s).status,
               errCount := (boundaryTransition s).errCount, errFlags := (boundaryTransition s).errFlags } := by
  rcases boundaryTransition_cases s with ⟨-, h⟩ | ⟨-, h⟩ | ⟨-, h⟩ | ⟨-, h⟩ <;> rw [h] <;> rfl

/-- The transition on a sample writes the baseline, the difference, the status and the error record alone. -/
theorem sampleTransition_frame (s : State) :
    sampleTransition s =
      { s with baseline := (sampleTransition s).baseline, value := (sampleTransition s).value,
               status := (sampleTransition s).status, errCount := (sampleTransition s).errCount,
               errFlags := (sampleTransition s).errFlags } := by
  rcases sampleTransition_cases s with ⟨-, h⟩ | ⟨-, h⟩ | ⟨-, h⟩ | ⟨-, h⟩ <;> rw [h] <;> rfl

/-- The result port is no element. -/
theorem Element.same_ret (e : Element) (s : State) (r : Response) : e.same s (s.ret r) := by cases e <;> rfl

/-- Settles O20: the effect of each operation is a record update, and the fields it updates are among the elements the
matrix lists. -/
theorem onlyListedOperationsWriteAnElement : Obligations.OnlyListedOperationsWriteAnElement := by
  intro e i s t h hw
  have ht := effect_of_exec h
  cases i with
  | sysReset => cases hw
  | evTick c =>
    rw [Effect, clockEvent_frame] at ht
    subst ht
    cases e <;> simp_all [Element.mayWrite, Element.same]
  | evSample r =>
    subst ht
    cases e <;> simp_all [Element.mayWrite, Element.same]
  | isrBnd =>
    rw [Effect, boundaryTransition_frame] at ht
    obtain ⟨-, rfl⟩ := ht
    cases e <;> simp_all [Element.mayWrite, Element.same]
  | isrSmp =>
    rw [Effect, sampleTransition_frame] at ht
    obtain ⟨-, rfl⟩ := ht
    cases e <;> simp_all [Element.mayWrite, Element.same]
  | isrOvf | wcReset | npcReset =>
    obtain ⟨-, -, rfl⟩ := ht
    cases e <;> simp_all [Element.mayWrite, Element.same]
  | wcConfigure len div =>
    obtain ⟨-, -, ⟨-, rfl⟩ | ⟨-, -, rfl⟩⟩ := ht
    · exact e.same_ret s _
    · cases e <;> simp_all [Element.mayWrite, Element.same]
  | wcStart =>
    obtain ⟨-, ⟨-, rfl⟩ | ⟨-, -, rfl⟩⟩ := ht
    · exact e.same_ret s _
    · cases e <;> simp_all [Element.mayWrite, Element.same]
  | wcStop | npcStart | npcStop | msmReset | irqDefer m | irqResume m =>
    obtain ⟨-, rfl⟩ := ht
    cases e <;> simp_all [Element.mayWrite, Element.same]
  | npcRead | npcRdlo | npcRdhi | msmStatus | msmErrors =>
    obtain ⟨-, rfl⟩ := ht
    exact e.same_ret s _
  | msmTake now =>
    obtain ⟨-, ⟨-, rfl⟩ | ⟨-, rfl⟩⟩ := ht
    · cases e <;> simp_all [Element.mayWrite, Element.same]
    · exact e.same_ret s _
  | pack a k j d =>
    obtain ⟨-, r, -, rfl⟩ := ht
    exact e.same_ret s _

/-! ### The error record -/

/-- Between the two states the error record stands still or takes one error of some kind (44_measurement_sm.md R134). -/
def AtMostOneError (s t : State) : Prop :=
  (t.errCount = s.errCount ∧ t.errFlags = s.errFlags) ∨
    ∃ k, t.errCount = saturatingSucc s.errCount ∧ t.errFlags = s.errFlags ||| errorFlag k

theorem atMostOneError_boundaryTransition (s : State) : AtMostOneError s (boundaryTransition s) := by
  rcases boundaryTransition_cases s with ⟨-, h⟩ | ⟨-, h⟩ | ⟨-, h⟩ | ⟨-, h⟩ <;> rw [h]
  · exact .inl ⟨rfl, rfl⟩
  · exact .inl ⟨rfl, rfl⟩
  · exact .inr ⟨.dupBoundary, rfl, rfl⟩
  · exact .inr ⟨.overrun, rfl, rfl⟩

theorem atMostOneError_sampleTransition (s : State) : AtMostOneError s (sampleTransition s) := by
  rcases sampleTransition_cases s with ⟨-, h⟩ | ⟨-, h⟩ | ⟨-, h⟩ | ⟨-, h⟩ <;> rw [h]
  · exact .inl ⟨rfl, rfl⟩
  · exact .inr ⟨.dupSample, rfl, rfl⟩
  · exact .inl ⟨rfl, rfl⟩
  · exact .inr ⟨.overrun, rfl, rfl⟩

/-- Only the two transitions of the state machine raise a sequencing error; the other operations do not write the record. -/
theorem exec_atMostOneError {i : Instr} {s t : State} (h : exec i s = .next t) (hi : i ≠ .sysReset) :
    AtMostOneError s t := by
  by_cases hw : Element.errCount.mayWrite i = false ∧ Element.errFlags.mayWrite i = false
  · have hcount : s.errCount = t.errCount := onlyListedOperationsWriteAnElement .errCount i s t h hw.1
    have hflags : s.errFlags = t.errFlags := onlyListedOperationsWriteAnElement .errFlags i s t h hw.2
    exact .inl ⟨hcount.symm, hflags.symm⟩
  · have ht := effect_of_exec h
    cases i with
    | sysReset => exact absurd rfl hi
    | isrBnd =>
      obtain ⟨-, rfl⟩ := ht
      exact atMostOneError_boundaryTransition s
    | isrSmp =>
      obtain ⟨-, rfl⟩ := ht
      exact atMostOneError_sampleTransition s
    | _ => exact absurd ⟨rfl, rfl⟩ hw

/-- Settles O24: an operation but `SYS.RESET` leaves the record or adds one error, and an error added counts at most one up
and only sets a flag. -/
theorem errorRecordOnlyGrows : Obligations.ErrorRecordOnlyGrows := by
  intro i s t h hi
  rcases exec_atMostOneError h hi with ⟨hcount, hflags⟩ | ⟨k, hcount, hflags⟩
  · rw [hcount, hflags]
    exact ⟨le_rfl, Nat.le_succ _, BitVec.and_self⟩
  · have hlt := s.errCount.isLt
    rw [hcount, hflags, saturatingSucc_toNat]
    exact ⟨by omega, by omega, by ext j hj; simpa using Or.inl⟩

/-! ### The invariants of R35 -/

/-- Item 1 of 10_state.md R35, on the configuration. -/
def ConfigInv (s : State) : Prop :=
  (s.winDiv = 0 ∧ s.winLen = 0) ∨
    (s.winDiv ≠ 0 ∧ s.winLen ≠ 0 ∧ s.winLen.toNat % s.winDiv.toNat = 0 ∧ 1 ≤ subPerWin s ∧ subPerWin s ≤ 65536)

/-- Items 1 to 3 of 10_state.md R35, on the configuration and the two stages of the window counter. -/
structure WindowInv (s : State) : Prop where
  config : ConfigInv s
  configured : s.wcRun = true → s.winDiv ≠ 0
  stages : s.wcRun = true → s.wcLow.toNat < s.winDiv.toNat ∧ s.wcHigh.toNat < subPerWin s

/-- Item 4 of 10_state.md R35, on the blanker. -/
def BlankerInv (s : State) : Prop :=
  (s.blankOut = false ↔ s.blankCnt = 0) ∧ s.blankCnt.toNat ≤ Config.blankLen.toNat

/-- Item 6 of 10_state.md R35, on the error record. -/
def ErrorInv (s : State) : Prop := s.errFlags = 0 ↔ s.errCount = 0

/-- The invariants fall into three parts on elements of their own. -/
theorem inv_iff (s : State) : Inv s ↔ WindowInv s ∧ BlankerInv s ∧ ErrorInv s :=
  ⟨fun h => ⟨⟨h.config, h.configured, h.stages⟩, h.blanker, h.errors⟩,
   fun ⟨hw, hb, he⟩ => ⟨hw.config, hw.configured, hw.stages, hb, he⟩⟩

/-- Items 1 to 3 are about the configuration, the stages and their run bit alone. -/
theorem WindowInv.congr {s t : State} (hlen : s.winLen = t.winLen) (hdiv : s.winDiv = t.winDiv)
    (hlow : s.wcLow = t.wcLow) (hhigh : s.wcHigh = t.wcHigh) (hrun : s.wcRun = t.wcRun) (h : WindowInv s) :
    WindowInv t := by
  obtain ⟨hc, hd, hs⟩ := h
  constructor <;> simp_all [ConfigInv, subPerWin]

theorem WindowInv.ret {s : State} (h : WindowInv s) (r : Response) : WindowInv (s.ret r) :=
  ⟨h.config, h.configured, h.stages⟩

theorem WindowInv.silent {s : State} (h : WindowInv s) : WindowInv s.silent := ⟨h.config, h.configured, h.stages⟩

/-- Stages at zero lie below the moduli of any window that is configured. -/
theorem WindowInv.zeroStages {s : State} (config : ConfigInv s) (configured : s.wcRun = true → s.winDiv ≠ 0)
    (hlow : s.wcLow = 0) (hhigh : s.wcHigh = 0) : WindowInv s where
  config := config
  configured := configured
  stages hrun := by
    have hdiv := configured hrun
    have hpos : s.winDiv.toNat ≠ 0 := fun h0 => hdiv (BitVec.eq_of_toNat_eq h0)
    obtain ⟨h0, -⟩ | ⟨-, -, -, hsub, -⟩ := config
    · exact absurd h0 hdiv
    · rw [hlow, hhigh]
      exact ⟨Nat.pos_of_ne_zero hpos, hsub⟩

/-- A stopped counter has no condition on its stages. -/
theorem WindowInv.stopped {s : State} (config : ConfigInv s) (hrun : s.wcRun = false) : WindowInv s :=
  ⟨config, by simp [hrun], by simp [hrun]⟩

/-- A window that `WC.CONFIGURE` stores has 1 to 65536 whole sub-cycles (43_window_controller.md R120). -/
theorem accepted_window {len : Word} {div : Half} (hd : notDivisible len div = false)
    (hl : windowTooShortOrLong len div = false) :
    div ≠ 0 ∧ len ≠ 0 ∧ len.toNat % div.toNat = 0 ∧ 1 ≤ len.toNat / div.toNat ∧ len.toNat / div.toNat ≤ 65536 := by
  obtain ⟨hdiv, hmod⟩ := (notDivisible_eq_false len div).mp hd
  obtain ⟨hlen, hmax⟩ := (windowTooShortOrLong_eq_false len div).mp hl
  have hlen0 : len.toNat ≠ 0 := fun h0 => hlen (BitVec.eq_of_toNat_eq h0)
  have hdiv0 : div.toNat ≠ 0 := fun h0 => hdiv (BitVec.eq_of_toNat_eq h0)
  have hle : div.toNat ≤ len.toNat := Nat.le_of_dvd (Nat.pos_of_ne_zero hlen0) (Nat.dvd_of_mod_eq_zero hmod)
  exact ⟨hdiv, hlen, hmod, (Nat.one_le_div_iff (Nat.pos_of_ne_zero hdiv0)).mpr hle, hmax⟩

/-- A counted event leaves each stage below its modulus: short of its compare value a stage goes up by one, at it the stage
returns to zero (40_wide_event_counter.md R81). -/
theorem wecAdvance_windowInv (len : Half) {s : State} (h : WindowInv s) : WindowInv (wecAdvance len s) := by
  rcases wecAdvance_cases len s with ⟨-, he⟩ | ⟨hrun, hlow, he⟩ | ⟨hrun, -, hhigh, he⟩ | ⟨-, -, -, he⟩ <;> rw [he]
  · exact h
  · obtain ⟨hl, hh⟩ := h.stages hrun
    have hne : s.wcLow.toNat + 1 ≠ s.winDiv.toNat := by simpa [lowAtTop] using hlow
    have hlt := s.winDiv.isLt
    have hsucc : (s.wcLow + 1).toNat = s.wcLow.toNat + 1 := by
      rw [BitVec.toNat_add_of_lt] <;> simp
      omega
    refine ⟨h.config, h.configured, fun _ => ⟨?_, hh⟩⟩
    show (s.wcLow + 1).toNat < s.winDiv.toNat
    omega
  · obtain ⟨hl, hh⟩ := h.stages hrun
    have hne : s.wcHigh.toNat + 1 ≠ subPerWin s := by simpa [highAtTop] using hhigh
    have hmax : subPerWin s ≤ 65536 := by
      obtain ⟨h0, -⟩ | ⟨-, -, -, -, hmax⟩ := h.config
      · exact absurd h0 (h.configured hrun)
      · exact hmax
    have hsucc : (s.wcHigh + 1).toNat = s.wcHigh.toNat + 1 := by
      rw [BitVec.toNat_add_of_lt] <;> simp
      omega
    refine ⟨h.config, h.configured, fun _ => ⟨?_, ?_⟩⟩
    · show 0 < s.winDiv.toNat
      omega
    · show (s.wcHigh + 1).toNat < subPerWin s
      omega
  · exact .zeroStages h.config h.configured rfl rfl

/-- Of the parts of a clock event only the last touches the window counter (41_polarity_synchronizer.md R90). -/
theorem clockEvent_windowInv (len : Half) (c : Bool) {s : State} (h : WindowInv s) :
    WindowInv (clockEvent len c s) := by
  rw [clockEvent_eq]
  exact wecAdvance_windowInv len ⟨h.config, h.configured, h.stages⟩

/-- `BLANK.ADVANCE` counts an asserted blanker down by one, and deasserts it at zero (40_wide_event_counter.md R84). -/
theorem blankAdvance_blankerInv {s : State} (h : BlankerInv s) : BlankerInv (blankAdvance s) := by
  obtain ⟨hiff, hle⟩ := h
  by_cases hout : s.blankOut = true
  · have hcnt : s.blankCnt ≠ 0 := fun h0 => by simp [hiff.mpr h0] at hout
    have hdec : (s.blankCnt - 1).toNat ≤ s.blankCnt.toNat := by bv_omega
    rw [blankAdvance, if_pos hout]
    exact ⟨by simp, hdec.trans hle⟩
  · rw [blankAdvance, if_neg hout]
    exact ⟨hiff, hle⟩

/-- A counted event leaves the blanker alone or, at a boundary, asserts it for its whole length
(40_wide_event_counter.md R82, R85). -/
theorem wecAdvance_blankerInv {s : State} (h : BlankerInv s) : BlankerInv (wecAdvance Config.blankLen s) := by
  rcases wecAdvance_cases Config.blankLen s with ⟨-, he⟩ | ⟨-, -, he⟩ | ⟨-, -, -, he⟩ | ⟨-, -, -, he⟩ <;> rw [he]
  · exact h
  · exact h
  · exact h
  · exact ⟨by simpa using blankLen_ne_zero, le_rfl⟩

/-- In a clock event the blanker advances first, and a boundary then asserts it again (41_polarity_synchronizer.md R90). -/
theorem clockEvent_blankerInv (c : Bool) {s : State} (h : BlankerInv s) :
    BlankerInv (clockEvent Config.blankLen c s) := by
  rw [clockEvent_eq]
  exact wecAdvance_blankerInv (blankAdvance_blankerInv h)

/-- Every operation keeps items 1 to 3: those that write an element of the window counter, by their rules; the others
write none of them (10_state.md R34). -/
theorem exec_windowInv {i : Instr} {s t : State} (h : exec i s = .next t) (hs : WindowInv s) : WindowInv t := by
  have keeps (e : Element) : e.mayWrite i = false → e.same s t := onlyListedOperationsWriteAnElement e i s t h
  have ht := effect_of_exec h
  cases i with
  | sysReset =>
    subst ht
    exact .stopped (.inl ⟨rfl, rfl⟩) rfl
  | evTick c =>
    subst ht
    exact (clockEvent_windowInv Config.blankLen c hs).silent
  | isrBnd =>
    have hlen : s.winLen = t.winLen := keeps .winLen rfl
    have hdiv : s.winDiv = t.winDiv := keeps .winDiv rfl
    obtain ⟨-, he⟩ := ht
    have hrun : t.wcRun = s.wcRun := by rw [he]
    exact .zeroStages (by simpa [ConfigInv, subPerWin, hlen, hdiv] using hs.config)
      (by simpa [hrun, hdiv] using hs.configured) (by rw [he]) (by rw [he])
  | wcConfigure len div =>
    obtain ⟨-, hrun, ⟨-, rfl⟩ | ⟨hd, hl, rfl⟩⟩ := ht
    · exact hs.ret _
    · exact .stopped (.inr (accepted_window hd hl)) hrun
  | wcStart =>
    obtain ⟨-, ⟨-, rfl⟩ | ⟨-, hf, rfl⟩⟩ := ht
    · exact hs.ret _
    · obtain ⟨hdiv, hlow, hhigh, -⟩ := (freshlyReset_iff s).mp hf
      exact .zeroStages hs.config (fun _ => hdiv) hlow hhigh
  | wcStop =>
    obtain ⟨-, rfl⟩ := ht
    exact .stopped hs.config rfl
  | wcReset =>
    obtain ⟨-, hrun, rfl⟩ := ht
    exact .stopped hs.config hrun
  | _ => exact hs.congr (keeps .winLen rfl) (keeps .winDiv rfl) (keeps .wcLow rfl) (keeps .wcHigh rfl) (keeps .wcRun rfl)

/-- Every operation keeps item 4: only a clock event counts the blanker, and only `SYS.RESET` clears it besides. -/
theorem exec_blankerInv {i : Instr} {s t : State} (h : exec i s = .next t) (hs : BlankerInv s) : BlankerInv t := by
  have keeps (e : Element) : e.mayWrite i = false → e.same s t := onlyListedOperationsWriteAnElement e i s t h
  have ht := effect_of_exec h
  cases i with
  | sysReset =>
    subst ht
    exact ⟨⟨fun _ => rfl, fun _ => rfl⟩, Nat.zero_le _⟩
  | evTick c =>
    subst ht
    exact clockEvent_blankerInv c hs
  | _ =>
    have hout : s.blankOut = t.blankOut := keeps .blankOut rfl
    have hcnt : s.blankCnt = t.blankCnt := keeps .blankCnt rfl
    rwa [BlankerInv, ← hout, ← hcnt]

/-- Every operation keeps item 6: an error leaves a flag set and the count above zero. -/
theorem exec_errorInv {i : Instr} {s t : State} (h : exec i s = .next t) (hs : ErrorInv s) : ErrorInv t := by
  by_cases hi : i = .sysReset
  · subst hi
    cases effect_of_exec h
    exact ⟨fun _ => rfl, fun _ => rfl⟩
  · rcases exec_atMostOneError h hi with ⟨hcount, hflags⟩ | ⟨k, hcount, hflags⟩ <;> rw [ErrorInv, hcount, hflags]
    · exact hs
    · exact iff_of_false (errorFlag_or_ne_zero _ k) (saturatingSucc_ne_zero _)

/-- Every operation that completes keeps the invariants of 10_state.md R35. -/
theorem exec_inv {i : Instr} {s t : State} (h : exec i s = .next t) (hs : Inv s) : Inv t := by
  obtain ⟨hw, hb, he⟩ := (inv_iff s).mp hs
  exact (inv_iff t).mpr ⟨exec_windowInv h hw, exec_blankerInv h hb, exec_errorInv h he⟩

/-- The invariants do not speak of the trace. -/
theorem Inv.withTrace {s : State} (h : Inv s) (bs : List Byte) : Inv (s.withTrace bs) :=
  ⟨h.config, h.configured, h.stages, h.blanker, h.errors⟩

/-- Settles O18: a step is one operation, from the state or from the state with its word taken off the trace, and every
operation keeps the invariants. -/
theorem everyStepKeepsTheInvariants : Obligations.EveryStepKeepsTheInvariants := by
  intro s t hs h
  obtain ⟨i, u, hu, hexec⟩ := step_next h
  rcases nextOperation_ok hu with ⟨x, -, -, -, rfl⟩ | ⟨rest, -, -, rfl⟩
  · exact exec_inv hexec hs
  · exact exec_inv hexec (hs.withTrace rest)

/-! ### What an operation reads (10_state.md R34) -/

/-- Two outcomes agree but for an element: next states that agree but for it, or one and the same refusal. -/
def OutcomesAgreeBut (e : Element) :
    Host.Outcome State Fault Refusal → Host.Outcome State Fault Refusal → Prop
  | .next s, .next t => AgreeBut e s t
  | .refused r, .refused q => r = q
  | _, _ => False

/-- The fields of the model's own hold the same in both states. -/
def SameOwn (s t : State) : Prop := s.trace = t.trace ∧ s.mode = t.mode ∧ s.resp = t.resp ∧ s.draws = t.draws

/-- Two states changed alike, element by element, still agree but for the element. That they are changed alike is, for a
record update with values equal by the hypotheses at hand, a look at each element; the default proof takes it. -/
theorem AgreeBut.carry {e : Element} {s t s' t' : State} (h : AgreeBut e s t)
    (hown : SameOwn s t → SameOwn s' t' := by exact id)
    (helem : ∀ e' : Element, e'.same s t → e'.same s' t' := by
      intro e'; cases e' <;> simp_all [Element.same]) : AgreeBut e s' t' :=
  ⟨fun e' hne => helem e' (h.1 e' hne), hown h.2⟩

/-- An element the operation may read is not the one in which the states differ. -/
theorem AgreeBut.read {e : Element} {i : Instr} {s t : State} (h : AgreeBut e s t) (hr : e.mayRead i = false)
    (e' : Element) (hr' : e'.mayRead i = true) : e'.same s t :=
  h.1 e' fun he => by simp [he, hr] at hr'

/-- Every handler step and every host operation is dispatched on the pending flags and the mask. -/
theorem readByDispatch_of_mayRead {e : Element} {i : Instr} (hk : i.kind ≠ .event) (hr : e.mayRead i = false) :
    e.readByDispatch = false := by
  cases i <;> simp_all [Element.mayRead, Instr.kind]

/-- Where dispatch does not read the element, it finds the same in both states. -/
theorem AgreeBut.dispatch {e : Element} {s t : State} (h : AgreeBut e s t) (hd : e.readByDispatch = false) :
    s.ovfPending = t.ovfPending ∧ s.bndPending = t.bndPending ∧ s.smpPending = t.smpPending ∧ s.irqMask = t.irqMask := by
  have same (e' : Element) (hd' : e'.readByDispatch = true) : e'.same s t :=
    h.1 e' fun he => by simp [he, hd] at hd'
  exact ⟨same .ovfPending rfl, same .bndPending rfl, same .smpPending rfl, same .irqMask rfl⟩

theorem enabled_congr {s t : State} (ho : s.ovfPending = t.ovfPending) (hb : s.bndPending = t.bndPending)
    (hs : s.smpPending = t.smpPending) (hm : s.irqMask = t.irqMask) (x : Source) : enabled x s = enabled x t := by
  cases x <;> simp [enabled, pending, deferred, ho, hb, hs, hm]

theorem hostOperation_agree {e : Element} {s t : State} {body : State → Host.Outcome State Fault Refusal}
    (h : AgreeBut e s t) (hd : e.readByDispatch = false) (hbody : OutcomesAgreeBut e (body s) (body t)) :
    OutcomesAgreeBut e (hostOperation body s) (hostOperation body t) := by
  obtain ⟨ho, hb, hs, hm⟩ := h.dispatch hd
  unfold hostOperation
  rw [nextHandler_congr ho hb hs hm]
  cases nextHandler t with
  | none => exact hbody
  | some x => rfl

theorem takeInterrupt_agree {e : Element} {s t : State} {x : Source}
    {body : State → Host.Outcome State Fault Refusal} (h : AgreeBut e s t) (hd : e.readByDispatch = false)
    (hbody : OutcomesAgreeBut e (body s) (body t)) :
    OutcomesAgreeBut e (takeInterrupt x body s) (takeInterrupt x body t) := by
  obtain ⟨ho, hb, hs, hm⟩ := h.dispatch hd
  unfold takeInterrupt
  rw [nextHandler_congr ho hb hs hm, enabled_congr ho hb hs hm x]
  split
  · rfl
  · split
    · rfl
    · exact hbody

theorem AgreeBut.ret {e : Element} {s t : State} (h : AgreeBut e s t) (r : Response) : AgreeBut e (s.ret r) (t.ret r) :=
  h.carry fun ⟨htrace, hmode, _, hdraws⟩ => ⟨htrace, hmode, rfl, hdraws⟩

theorem AgreeBut.silent {e : Element} {s t : State} (h : AgreeBut e s t) : AgreeBut e s.silent t.silent :=
  h.carry fun ⟨htrace, hmode, _, hdraws⟩ => ⟨htrace, hmode, rfl, hdraws⟩

/-! #### Clearing the counters -/

theorem clearPulseCount_agree {e : Element} {s t : State} (h : AgreeBut e s t) :
    AgreeBut e (clearPulseCount s) (clearPulseCount t) := by
  unfold clearPulseCount
  exact h.carry

theorem clearWindow_agree {e : Element} {s t : State} (h : AgreeBut e s t) :
    AgreeBut e (clearWindow s) (clearWindow t) := by
  unfold clearWindow
  exact h.carry

/-! #### A clock event -/

theorem blankAdvance_agree {e : Element} {s t : State} (h : AgreeBut e s t) (hout : s.blankOut = t.blankOut)
    (hcnt : s.blankCnt = t.blankCnt) : AgreeBut e (blankAdvance s) (blankAdvance t) := by
  unfold blankAdvance
  rw [hout]
  split
  · exact h.carry
  · exact h

theorem npcCount_agree {e : Element} {s t : State} (h : AgreeBut e s t) (hrun : s.pcRun = t.pcRun)
    (hlow : s.pcLow = t.pcLow) : AgreeBut e (npcCount s) (npcCount t) := by
  unfold npcCount
  rw [hrun, hlow]
  split
  · split
    · exact h.carry
    · exact h.carry
  · exact h

theorem wecAdvance_agree {e : Element} {s t : State} (h : AgreeBut e s t) (len : Half) (hrun : s.wcRun = t.wcRun)
    (hwin : s.winLen = t.winLen) (hdiv : s.winDiv = t.winDiv) (hlow : s.wcLow = t.wcLow) (hhigh : s.wcHigh = t.wcHigh) :
    AgreeBut e (wecAdvance len s) (wecAdvance len t) := by
  have hlowTop : lowAtTop s = lowAtTop t := by simp [lowAtTop, hdiv, hlow]
  have hhighTop : highAtTop s = highAtTop t := by simp [highAtTop, subPerWin, hwin, hdiv, hhigh]
  unfold wecAdvance
  simp only [hrun, hlowTop, hhighTop, boundary, blankTrigger, Config.hasBlanker, if_true]
  split
  · split
    · split
      · exact h.carry
      · exact h.carry
    · exact h.carry
  · exact h

theorem clockEvent_agree {e : Element} {s t : State} (h : AgreeBut e s t) (len : Half) (c : Bool)
    (hr : e.mayRead (.evTick c) = false) : AgreeBut e (clockEvent len c s) (clockEvent len c t) := by
  have reads {u v : State} (huv : AgreeBut e u v) (e' : Element) (hr' : e'.mayRead (.evTick c) = true) :
      e'.same u v := huv.read hr e' hr'
  have hpol : AgreeBut e { s with polQ := c } { t with polQ := c } := h.carry
  have hblank := blankAdvance_agree hpol (reads hpol .blankOut rfl) (reads hpol .blankCnt rfl)
  unfold clockEvent
  dsimp only
  split
  · have hpulse := npcCount_agree hblank (reads hblank .pcRun rfl) (reads hblank .pcLow rfl)
    exact wecAdvance_agree hpulse len (reads hpulse .wcRun rfl) (reads hpulse .winLen rfl) (reads hpulse .winDiv rfl)
      (reads hpulse .wcLow rfl) (reads hpulse .wcHigh rfl)
  · exact wecAdvance_agree hblank len (reads hblank .wcRun rfl) (reads hblank .winLen rfl) (reads hblank .winDiv rfl)
      (reads hblank .wcLow rfl) (reads hblank .wcHigh rfl)

/-! #### The transitions of the state machine -/

theorem boundaryTransition_agree {e : Element} {s t : State} (h : AgreeBut e s t) (hstatus : s.status = t.status)
    (hlow : s.pcLow = t.pcLow) (hhigh : s.pcHigh = t.pcHigh) :
    AgreeBut e (boundaryTransition s) (boundaryTransition t) := by
  unfold boundaryTransition
  rw [hstatus]
  cases t.status with
  | clean => exact h
  | prevCharge | negativeCounts | resultAvail => exact h.carry

theorem sampleTransition_agree {e : Element} {s t : State} (h : AgreeBut e s t) (hstatus : s.status = t.status)
    (hbase : s.baseline = t.baseline) (hdata : s.smpData = t.smpData) :
    AgreeBut e (sampleTransition s) (sampleTransition t) := by
  unfold sampleTransition
  rw [hstatus]
  cases t.status with
  | clean | prevCharge | negativeCounts | resultAvail => exact h.carry

theorem windowRearm_agree {e : Element} {s t : State} (h : AgreeBut e s t)
    (hr : e.mayRead .isrBnd = false) :
    AgreeBut e (windowRearm boundaryTransition s) (windowRearm boundaryTransition t) := by
  have hrun : s.wcRun = t.wcRun := h.read hr .wcRun rfl
  have hpulse : s.pcRun = t.pcRun := h.read hr .pcRun rfl
  rw [windowRearm_boundary, windowRearm_boundary]
  exact (boundaryTransition_agree h (h.read hr .status rfl) (h.read hr .pcLow rfl) (h.read hr .pcHigh rfl)).carry

/-! #### Every operation -/

theorem event_agree {e : Element} {i : Instr} {s t : State} (hk : i.kind = .event) (hr : e.mayRead i = false)
    (h : AgreeBut e s t) : OutcomesAgreeBut e (exec i s) (exec i t) := by
  cases i with
  | sysReset =>
    obtain ⟨-, htrace, hmode, -, hdraws⟩ := h
    exact ⟨fun e' _ => by cases e' <;> simp [Element.same, hdraws], htrace, hmode, rfl, by simp [hdraws]⟩
  | evTick c => exact (clockEvent_agree h Config.blankLen c hr).silent
  | evSample r =>
    have hlatch : AgreeBut e { s with smpData := r, smpPending := true } { t with smpData := r, smpPending := true } :=
      h.carry
    exact hlatch.silent
  | _ => cases hk

theorem handler_agree {e : Element} (x : Source) {s t : State} (hr : e.mayRead x.handler = false)
    (h : AgreeBut e s t) : OutcomesAgreeBut e (exec x.handler s) (exec x.handler t) := by
  have hd : e.readByDispatch = false := readByDispatch_of_mayRead (by cases x <;> nofun) hr
  cases x with
  | ovf =>
    have hhigh : s.pcHigh = t.pcHigh := h.read hr .pcHigh rfl
    simp only [Source.handler, exec, execIsrOvf]
    refine takeInterrupt_agree h hd ?_
    rw [hhigh]
    split
    · rfl
    · have hack : AgreeBut e { s with pcHigh := t.pcHigh + 1, ovfPending := false }
          { t with pcHigh := t.pcHigh + 1, ovfPending := false } := h.carry
      exact hack.silent
  | bnd =>
    simp only [Source.handler, exec, execIsrBnd]
    exact takeInterrupt_agree h hd (windowRearm_agree h hr).silent
  | smp =>
    have hack : AgreeBut e { s with smpPending := false } { t with smpPending := false } := h.carry
    have htrans := sampleTransition_agree hack (hack.read hr .status rfl) (hack.read hr .baseline rfl)
      (hack.read hr .smpData rfl)
    simp only [Source.handler, exec, execIsrSmp]
    exact takeInterrupt_agree h hd htrans.silent

/-- A host operation that returns what it reads and writes nothing. -/
theorem hostRead_agree {e : Element} {s t : State} (h : AgreeBut e s t) (hd : e.readByDispatch = false)
    (result : State → Response) (hresult : result s = result t) :
    OutcomesAgreeBut e (hostOperation (fun s => completes id (result s) s) s)
      (hostOperation (fun s => completes id (result s) s) t) := by
  refine hostOperation_agree h hd ?_
  rw [hresult]
  exact h.ret (result t)

theorem host_agree {e : Element} {i : Instr} {s t : State} (hk : i.kind = .host) (hr : e.mayRead i = false)
    (h : AgreeBut e s t) : OutcomesAgreeBut e (exec i s) (exec i t) := by
  have hd : e.readByDispatch = false := readByDispatch_of_mayRead (by simp [hk]) hr
  cases i with
  | wcConfigure len div =>
    have hrun : s.wcRun = t.wcRun := h.read hr .wcRun rfl
    simp only [exec, execWcConfigure]
    refine hostOperation_agree h hd ?_
    rw [hrun]
    split
    · rfl
    · split
      · exact h.ret .errNotDivisible
      · split
        · rfl
        · exact AgreeBut.ret h.carry .ok
  | wcStart =>
    have hrun : s.wcRun = t.wcRun := h.read hr .wcRun rfl
    have hdiv : s.winDiv = t.winDiv := h.read hr .winDiv rfl
    have hlow : s.wcLow = t.wcLow := h.read hr .wcLow rfl
    have hhigh : s.wcHigh = t.wcHigh := h.read hr .wcHigh rfl
    have hbnd : s.bndPending = t.bndPending := h.read hr .bndPending rfl
    have hfresh : freshlyReset s = freshlyReset t := by simp [freshlyReset, hdiv, hlow, hhigh, hbnd]
    simp only [exec, execWcStart]
    refine hostOperation_agree h hd ?_
    rw [hrun, hfresh]
    split
    · exact h.ret .ok
    · split
      · exact AgreeBut.ret h.carry .ok
      · rfl
  | wcReset =>
    have hrun : s.wcRun = t.wcRun := h.read hr .wcRun rfl
    simp only [exec, execWcReset]
    refine hostOperation_agree h hd ?_
    rw [hrun]
    split
    · rfl
    · exact (clearWindow_agree h).ret .ok
  | npcReset =>
    have hrun : s.pcRun = t.pcRun := h.read hr .pcRun rfl
    simp only [exec, execNpcReset]
    refine hostOperation_agree h hd ?_
    rw [hrun]
    split
    · rfl
    · exact (clearPulseCount_agree h).ret .ok
  | wcStop | npcStart | npcStop | msmReset | irqDefer m | irqResume m =>
    simp only [exec, execWcStop, execNpcStart, execNpcStop, execMsmReset, execIrqDefer, execIrqResume]
    exact hostOperation_agree h hd (AgreeBut.ret h.carry .ok)
  | npcRead =>
    have hlow : s.pcLow = t.pcLow := h.read hr .pcLow rfl
    have hhigh : s.pcHigh = t.pcHigh := h.read hr .pcHigh rfl
    exact hostRead_agree h hd (fun s => .u32 (combine s.pcLow s.pcHigh)) (by simp only [hlow, hhigh])
  | npcRdlo =>
    have hlow : s.pcLow = t.pcLow := h.read hr .pcLow rfl
    exact hostRead_agree h hd (fun s => .u16 s.pcLow) (by simp only [hlow])
  | npcRdhi =>
    have hhigh : s.pcHigh = t.pcHigh := h.read hr .pcHigh rfl
    exact hostRead_agree h hd (fun s => .u8 s.pcHigh) (by simp only [hhigh])
  | msmStatus =>
    have hstatus : s.status = t.status := h.read hr .status rfl
    exact hostRead_agree h hd (fun s => .u8 ((statusCode s.status).setWidth 8)) (by simp only [hstatus])
  | msmErrors =>
    have hcount : s.errCount = t.errCount := h.read hr .errCount rfl
    have hflags : s.errFlags = t.errFlags := h.read hr .errFlags rfl
    exact hostRead_agree h hd (fun s => .errors s.errCount (s.errFlags.setWidth 8)) (by simp only [hcount, hflags])
  | msmTake now =>
    have hstatus : s.status = t.status := h.read hr .status rfl
    have hvalue : s.value = t.value := h.read hr .value rfl
    have hneg : s.negCounts = t.negCounts := h.read hr .negCounts rfl
    simp only [exec, execMsmTake]
    refine hostOperation_agree h hd ?_
    rw [hstatus, hvalue, hneg]
    split
    · exact AgreeBut.ret h.carry _
    · exact h.ret .noResult
  | pack a k j d =>
    simp only [exec, execPack]
    refine hostOperation_agree h hd ?_
    cases packResult a k j d with
    | none => rfl
    | some r => exact h.ret (.u32 r)
  | _ => cases hk

/-- From states that agree but for an element an operation does not read, its outcomes agree but for that element. -/
theorem exec_agree {e : Element} {i : Instr} {s t : State} (hr : e.mayRead i = false) (h : AgreeBut e s t) :
    OutcomesAgreeBut e (exec i s) (exec i t) := by
  cases hk : i.kind with
  | event => exact event_agree hk hr h
  | handlerStep =>
    cases i with
    | isrOvf => exact handler_agree .ovf hr h
    | isrBnd => exact handler_agree .bnd hr h
    | isrSmp => exact handler_agree .smp hr h
    | _ => cases hk
  | host => exact host_agree hk hr h

/-- Settles O21: both outcomes are of one kind, and next states agree but for the element. -/
theorem onlyListedOperationsReadAnElement : Obligations.OnlyListedOperationsReadAnElement := by
  intro e i s t hr h
  have hagree := exec_agree hr h
  refine ⟨fun s' hs => ?_, fun r hs => ?_⟩ <;> rw [hs] at hagree
  · cases ht : exec i t with
    | next t' => exact ⟨t', rfl, by rwa [ht] at hagree⟩
    | fault f => cases f
    | refused q => rw [ht] at hagree; exact hagree.elim
  · cases ht : exec i t with
    | next t' => rw [ht] at hagree; exact hagree.elim
    | fault f => cases f
    | refused q =>
      rw [ht] at hagree
      exact congrArg _ (Eq.symm hagree)

end Sys2Proof.Machine
end

section
/-! PROOFS. The split read of the pulse count (20_memory.md R47): the reads and `ISR.OVF` as equations, what a clock event
leaves enabled, and the three recombined values. -/

namespace Sys2Proof.Machine

/-! ### The operations of a split read, where they complete -/

theorem exec_npcRdlo {s : State} (h : hostMayAct s) : exec .npcRdlo s = .next (s.ret (.u16 s.pcLow)) :=
  hostOperation_of_mayAct _ h

theorem exec_npcRdhi {s : State} (h : hostMayAct s) : exec .npcRdhi s = .next (s.ret (.u8 s.pcHigh)) :=
  hostOperation_of_mayAct _ h

theorem exec_isrOvf {s : State} (h : nextHandler s = some .ovf) (hhigh : s.pcHigh ≠ 0xFF) :
    exec .isrOvf s = .next { s with pcHigh := s.pcHigh + 1, ovfPending := false, resp := none } := by
  simp only [exec, execIsrOvf]
  rw [takeInterrupt_of_turn _ h, if_neg hhigh]
  rfl

/-! ### What a clock event does to the pulse counter and to the enabled sources -/

/-- A counted event raises BND exactly if it completes the window (40_wide_event_counter.md R82). -/
theorem wecAdvance_bndPending (len : Half) (s : State) :
    (wecAdvance len s).bndPending = true ↔ s.bndPending = true ∨ (s.wcRun = true ∧ atLastEvent s) := by
  have hlast : atLastEvent s ↔ lowAtTop s = true ∧ highAtTop s = true := by
    simp [atLastEvent, lowAtTop, highAtTop, subPerWin]
  rcases wecAdvance_cases len s with ⟨hrun, he⟩ | ⟨-, hl, he⟩ | ⟨-, -, hh, he⟩ | ⟨hrun, hl, hh, he⟩
  · simp [he, hrun]
  · simp [he, hlast, hl]
  · simp [he, hlast, hh]
  · simp [he, hlast, hrun, hl, hh]

theorem clockEvent_bndPending (len : Half) (c : Bool) (s : State) :
    (clockEvent len c s).bndPending = true ↔ s.bndPending = true ∨ (s.wcRun = true ∧ atLastEvent s) := by
  rw [clockEvent_eq]
  exact wecAdvance_bndPending len _

theorem clockEvent_pcHigh (len : Half) (c : Bool) (s : State) : (clockEvent len c s).pcHigh = s.pcHigh := by
  rw [clockEvent_frame]

theorem clockEvent_smpPending (len : Half) (c : Bool) (s : State) : (clockEvent len c s).smpPending = s.smpPending := by
  rw [clockEvent_frame]

theorem clockEvent_irqMask (len : Half) (c : Bool) (s : State) : (clockEvent len c s).irqMask = s.irqMask := by
  rw [clockEvent_frame]

/-- With a pulse, the pulse counter's part of a clock event is `NPC.COUNT` (41_polarity_synchronizer.md R90). -/
theorem clockEvent_active (len : Half) (s : State) :
    (clockEvent len Config.activeLevel s).pcLow = (npcCount s).pcLow ∧
    (clockEvent len Config.activeLevel s).ovfPending = (npcCount s).ovfPending := by
  rw [clockEvent_eq, wecAdvance_frame]
  exact ⟨rfl, rfl⟩

/-- A pulse counted at `0xFFFF` wraps the low word and raises OVF (42_pulse_counter.md R100). -/
theorem clockEvent_wraps (len : Half) {s : State} (hrun : s.pcRun = true) (hlow : s.pcLow = 0xFFFF) :
    (clockEvent len Config.activeLevel s).pcLow = 0 ∧ (clockEvent len Config.activeLevel s).ovfPending = true := by
  have hcount : npcCount s = { s with pcLow := 0, ovfPending := true } := by simp [npcCount, hrun, hlow]
  simpa only [hcount] using clockEvent_active len s

/-- A clock event that does not complete the window, or finds BND deferred, leaves BND as enabled as it was. -/
theorem clockEvent_enabled_bnd (len : Half) (c : Bool) {s : State}
    (hbnd : s.wcRun = true → atLastEvent s → s.irqMask.getLsbD 1 = true) :
    enabled .bnd (clockEvent len c s) = enabled .bnd s := by
  simp only [enabled, pending, deferred, sourceNumber, clockEvent_irqMask]
  by_cases hlast : s.wcRun = true ∧ atLastEvent s
  · rw [hbnd hlast.1 hlast.2]
    simp
  · congr 1
    rw [Bool.eq_iff_iff, clockEvent_bndPending]
    exact or_iff_left hlast

theorem clockEvent_enabled_smp (len : Half) (c : Bool) (s : State) :
    enabled .smp (clockEvent len c s) = enabled .smp s := by
  simp only [enabled, pending, deferred, clockEvent_smpPending, clockEvent_irqMask]

/-! ### The clock event at which the low word wraps -/

/-- The state after the clock event whose pulse is counted: at `pc_low = 0xFFFF`, the wraparound of R47. -/
def afterPulse (s : State) : State := (clockEvent Config.blankLen Config.activeLevel s).silent

theorem exec_evTick_active (s : State) : exec (.evTick Config.activeLevel) s = .next (afterPulse s) := rfl

theorem afterPulse_pcHigh (s : State) : (afterPulse s).pcHigh = s.pcHigh := clockEvent_pcHigh _ _ s

theorem afterPulse_wraps {s : State} (hrun : s.pcRun = true) (hlow : s.pcLow = 0xFFFF) :
    (afterPulse s).pcLow = 0 ∧ (afterPulse s).ovfPending = true := clockEvent_wraps _ hrun hlow

theorem enabled_ovf_afterPulse {s : State} (hrun : s.pcRun = true) (hlow : s.pcLow = 0xFFFF) :
    enabled .ovf (afterPulse s) = !s.irqMask.getLsbD 0 := by
  have hmask : (afterPulse s).irqMask = s.irqMask := clockEvent_irqMask _ _ s
  simp [enabled, pending, deferred, sourceNumber, hmask, (afterPulse_wraps hrun hlow).2]

/-- After the wraparound no source but OVF is enabled. -/
theorem enabled_afterPulse {s : State} (hact : hostMayAct s)
    (hbnd : s.wcRun = true → atLastEvent s → s.irqMask.getLsbD 1 = true) :
    enabled .bnd (afterPulse s) = false ∧ enabled .smp (afterPulse s) = false :=
  ⟨(clockEvent_enabled_bnd _ _ hbnd).trans (nextHandler_eq_none.mp hact .bnd),
   (clockEvent_enabled_smp _ _ s).trans (nextHandler_eq_none.mp hact .smp)⟩

/-- With OVF deferred the main loop goes on over the wraparound. -/
theorem hostMayAct_afterPulse {s : State} (hact : hostMayAct s) (hrun : s.pcRun = true) (hlow : s.pcLow = 0xFFFF)
    (hbnd : s.wcRun = true → atLastEvent s → s.irqMask.getLsbD 1 = true) (hdefer : s.irqMask.getLsbD 0 = true) :
    hostMayAct (afterPulse s) := by
  obtain ⟨hb, hs⟩ := enabled_afterPulse hact hbnd
  have ho : enabled .ovf (afterPulse s) = false := by rw [enabled_ovf_afterPulse hrun hlow, hdefer]; rfl
  simp [hostMayAct, nextHandler_eq, ho, hb, hs]

/-- Without deferral the wraparound is handled next, and the main loop goes on after its handler. -/
theorem isrOvf_afterPulse {s : State} (hact : hostMayAct s) (hrun : s.pcRun = true) (hlow : s.pcLow = 0xFFFF)
    (hbnd : s.wcRun = true → atLastEvent s → s.irqMask.getLsbD 1 = true) (hopen : s.irqMask.getLsbD 0 = false)
    (hhigh : s.pcHigh ≠ 0xFF) :
    ∃ t, exec .isrOvf (afterPulse s) = .next t ∧ hostMayAct t ∧ t.pcHigh.toNat = s.pcHigh.toNat + 1 := by
  obtain ⟨hb, hs⟩ := enabled_afterPulse hact hbnd
  have ho : enabled .ovf (afterPulse s) = true := by rw [enabled_ovf_afterPulse hrun hlow, hopen]; rfl
  have hturn : nextHandler (afterPulse s) = some .ovf := by rw [nextHandler_eq, if_pos ho]
  refine ⟨_, exec_isrOvf hturn (by rwa [afterPulse_pcHigh]), nextHandler_eq_none.mpr fun x => ?_, ?_⟩
  · cases x with
    | ovf => rfl
    | bnd => exact hb
    | smp => exact hs
  · have hne : s.pcHigh.toNat ≠ 255 := fun h => hhigh (BitVec.eq_of_toNat_eq h)
    have hlt := s.pcHigh.isLt
    show ((afterPulse s).pcHigh + 1).toNat = s.pcHigh.toNat + 1
    rw [afterPulse_pcHigh]
    exact toNat_add_one _ (by omega)

/-! ### The split read across a wraparound (20_memory.md R47) -/

/-- Settles O48: the handler's increment of the high part comes on top of a low part read before the wraparound; with OVF
deferred the high part stays, so that only the low part's return to 0 tells whether the wraparound was before the reads. -/
theorem splitReadIsTornWithoutDeferral : Obligations.SplitReadIsTornWithoutDeferral := by
  intro s hact hrun hlow hbnd
  refine ⟨fun hopen hhigh => ?torn, fun hdefer => ?between, fun hdefer => ?before⟩
  case torn =>
    obtain ⟨t, hisr, hmay, hinc⟩ := isrOvf_afterPulse (s := s.ret (.u16 s.pcLow)) hact hrun hlow hbnd hopen hhigh
    refine ⟨_, _, t, _, _, _, exec_npcRdlo hact, rfl, exec_evTick_active _, hisr, exec_npcRdhi hmay, rfl, ?_⟩
    simp only [State.ret_pcHigh] at hinc
    rw [combine_toNat, hinc, pulseCount]
    omega
  case between =>
    have hmay := hostMayAct_afterPulse (s := s.ret (.u16 s.pcLow)) hact hrun hlow hbnd hdefer
    refine ⟨_, _, _, _, _, exec_npcRdlo hact, rfl, exec_evTick_active _, exec_npcRdhi hmay, rfl, ?_⟩
    rw [combine_toNat, afterPulse_pcHigh]
    rfl
  case before =>
    have hmay := hostMayAct_afterPulse hact hrun hlow hbnd hdefer
    obtain ⟨-, hovf⟩ := afterPulse_wraps hrun hlow
    refine ⟨_, _, _, _, _, exec_evTick_active s, exec_npcRdlo hmay, rfl, exec_npcRdhi hmay, rfl, ?_⟩
    rw [combine_toNat, pulseTotal, hovf]
    rfl

end Sys2Proof.Machine
end

section
/-! PROOFS. The encoding (30_encoding.md R61 to R70): the round trips between operations and words, the words that are no
operation, and the bytes of results. -/

namespace Sys2Proof

/-! ### The round trip of one word (30_encoding.md R61 to R64) -/

/-- The word of an operation is an opcode byte and operand bytes that assemble to the operation, whatever follows them. -/
theorem encode_spells (i : Instr) : ∃ b operands op, encode i = b :: operands ∧ opcodeOf b = some op ∧
    ∀ rest, assemble op (operands ++ rest) = some (i, rest) := by
  cases i with
  | evTick c => exact ⟨_, [], _, rfl, opcodeOf_evTick c, fun _ => rfl⟩
  | irqDefer m => exact ⟨_, [], _, rfl, opcodeOf_irqDefer m, fun _ => rfl⟩
  | irqResume m => exact ⟨_, [], _, rfl, opcodeOf_irqResume m, fun _ => rfl⟩
  | evSample r => exact ⟨_, le16 r, .sample, rfl, rfl, fun _ => by simp [le16, assemble]⟩
  | wcConfigure len div => exact ⟨_, le32 len ++ le16 div, .configure, rfl, rfl, fun _ => by simp [le32, le16, assemble]⟩
  | msmTake now => exact ⟨_, le32 now, .take, rfl, rfl, fun _ => by simp [le32, assemble]⟩
  | pack a k j d =>
    exact ⟨_, le32 a ++ le16 k ++ le32 j ++ le16 d, .pack, rfl, rfl, fun _ => by simp [le32, le16, assemble]⟩
  | sysReset | isrOvf | isrBnd | isrSmp | wcStart | wcStop | wcReset | npcReset | npcStart | npcStop | npcRead | npcRdlo
  | npcRdhi | msmReset | msmStatus | msmErrors => exact ⟨_, [], _, rfl, rfl, fun _ => rfl⟩

theorem decode_encode (i : Instr) (rest : List Byte) : decode (encode i ++ rest) = .ok (i, rest) := by
  obtain ⟨b, operands, op, hword, hop, hasm⟩ := encode_spells i
  rw [hword, List.cons_append, decode_of_opcode _ hop, hasm]

/-- Settles O1: byte 0 gives the opcode back, and the operand bytes after it assemble to the operands. -/
theorem decodeOfEncodeIsTheOperation : Obligations.DecodeOfEncodeIsTheOperation := decode_encode

/-! ### The round trip of a trace (30_encoding.md R61) -/

/-- With the bound not used up, a trace decodes to its first operation and those of the bytes after the word. -/
theorem decodeTraceUpTo_succ {bs rest : List Byte} {i : Instr} (fuel : Nat) (h : decode bs = .ok (i, rest)) :
    decodeTraceUpTo (fuel + 1) bs = (decodeTraceUpTo fuel rest).map (i :: ·) := by
  cases bs with
  | nil => cases h
  | cons b tail =>
    have hword : decodeWord b tail = .ok (i, rest) := h
    simp only [decodeTraceUpTo, hword]

@[simp] theorem encodeTrace_cons (i : Instr) (is : List Instr) : encodeTrace (i :: is) = encode i ++ encodeTrace is := rfl

theorem length_encode_pos (i : Instr) : 0 < (encode i).length := by
  obtain ⟨b, operands, -, hword, -⟩ := encode_spells i
  simp [hword]

/-- No word is empty, so a trace has at least as many bytes as operations. -/
theorem length_le_length_encodeTrace (is : List Instr) : is.length ≤ (encodeTrace is).length := by
  induction is with
  | nil => exact Nat.zero_le _
  | cons i is ih =>
    have hpos := length_encode_pos i
    rw [encodeTrace_cons, List.length_append, List.length_cons]
    omega

theorem decodeTraceUpTo_encodeTrace {is : List Instr} {fuel : Nat} (h : is.length ≤ fuel) :
    decodeTraceUpTo fuel (encodeTrace is) = .ok is := by
  induction is generalizing fuel with
  | nil => cases fuel <;> rfl
  | cons i is ih =>
    cases fuel with
    | zero => cases h
    | succ fuel =>
      rw [encodeTrace_cons, decodeTraceUpTo_succ fuel (decode_encode i _), ih (Nat.le_of_succ_le_succ h)]
      rfl

/-- Settles O2, by induction on the operations: the length of the trace bounds their number. -/
theorem encodedTraceDecodesToItsOperations : Obligations.EncodedTraceDecodesToItsOperations := fun is =>
  decodeTraceUpTo_encodeTrace (length_le_length_encodeTrace is)

/-! ### Each word has one meaning (30_encoding.md R61 to R63, R65) -/

/-- The bytes assembled under an opcode byte are the word of the operation they give. -/
theorem encode_of_assemble {b : Byte} {op : Opcode} {tail rest : List Byte} {i : Instr} (hop : opcodeOf b = some op)
    (h : assemble op tail = some (i, rest)) : b :: tail = encode i ++ rest := by
  unfold assemble at h
  split at h
  next => cases h; rw [encode_of_opcodeOf_whole hop]; rfl
  next => cases h; simp [encode, byte_of_opcodeOf_sample hop]
  next => cases h; simp [encode, byte_of_opcodeOf_configure hop]
  next => cases h; simp [encode, byte_of_opcodeOf_take hop]
  next => cases h; simp [encode, byte_of_opcodeOf_pack hop]
  next => cases h

theorem eq_encode_of_decode {bs rest : List Byte} {i : Instr} (h : decode bs = .ok (i, rest)) : bs = encode i ++ rest := by
  obtain ⟨b, tail, op, rfl, hop, hasm⟩ := decode_ok h
  exact encode_of_assemble hop hasm

/-- Settles O3, by cases on what byte 0 spells. -/
theorem decodedBytesAreTheEncoding : Obligations.DecodedBytesAreTheEncoding := fun _ _ _ => eq_encode_of_decode

/-- A word cut short holds no whole word: that word would be one more meaning of the one cut. -/
theorem decode_take_ne_ok {i : Instr} {k : Nat} (hk : k < (encode i).length) (j : Instr) (rest : List Byte) :
    decode ((encode i).take k) ≠ .ok (j, rest) := by
  intro h
  have hword : encode i ++ [] = encode j ++ (rest ++ (encode i).drop k) := by
    rw [List.append_nil, ← List.append_assoc, ← eq_encode_of_decode h, List.take_append_drop]
  have hdecode := decode_encode i []
  rw [hword, decode_encode] at hdecode
  simp only [Except.ok.injEq, Prod.mk.injEq, List.append_eq_nil_iff, List.drop_eq_nil_iff] at hdecode
  omega

/-- A legal byte 0 without a whole word behind it is a word cut short. -/
theorem decode_eq_truncatedWord {b : Byte} {tail : List Byte} {op : Opcode} (hop : opcodeOf b = some op)
    (h : ∀ i rest, decode (b :: tail) ≠ .ok (i, rest)) : decode (b :: tail) = .error (.truncatedWord b) := by
  cases hasm : assemble op tail with
  | none => rw [decode_of_opcode _ hop, hasm]
  | some r =>
    refine absurd ?_ (h r.1 r.2)
    rw [decode_of_opcode _ hop, hasm]

/-- Settles O4: a word cut short keeps its legal byte 0 and holds no whole word. -/
theorem wordCutShortIsInvalid : Obligations.WordCutShortIsInvalid := by
  intro i k hpos hk
  have hnot := decode_take_ne_ok hk
  obtain ⟨b, operands, op, hword, hop, -⟩ := encode_spells i
  obtain ⟨k, rfl⟩ := Nat.exists_eq_add_one_of_ne_zero hpos.ne'
  rw [hword, List.take_succ_cons] at hnot ⊢
  exact decode_eq_truncatedWord hop hnot

/-! ### Illegal words (30_encoding.md R65) -/

/-- A word is refused for its byte 0 exactly if no row of the opcode map matches that byte, whatever follows. -/
theorem decode_eq_illegalByte0 (b : Byte) (tail : List Byte) :
    decode (b :: tail) = .error (.illegalByte0 b) ↔ opcodeOf b = none := by
  cases hop : opcodeOf b with
  | none => simp [decode, decodeWord, hop]
  | some op =>
    rw [decode_of_opcode _ hop]
    cases assemble op tail <;> simp

/-- The bytes that no row of the opcode map matches, by a look at all 256. -/
theorem opcodeOf_eq_none : ∀ b : Byte, opcodeOf b = none ↔
    (b = 0x01 ∨ (0x05 ≤ b ∧ b ≤ 0x07) ∨ (0x0B ≤ b ∧ b ≤ 0x0F) ∨ (0x14 ≤ b ∧ b ≤ 0x1F) ∨ (0x26 ≤ b ∧ b ≤ 0x2F) ∨
      (0x34 ≤ b ∧ b ≤ 0x3F) ∨ (0x41 ≤ b ∧ b ≤ 0x4F) ∨ 0x60 ≤ b) := by decide

/-- Settles O5. -/
theorem illegalFirstBytes : Obligations.IllegalFirstBytes := fun b rest =>
  (decode_eq_illegalByte0 b rest).trans (opcodeOf_eq_none b)

/-! ### The worked encodings (30_encoding.md R70) -/

/-- Bytes that are the word of an operation decode to it alone. -/
theorem decode_of_encode_eq {i : Instr} {bs : List Byte} (h : encode i = bs) : decode bs = .ok (i, []) := by
  rw [← h, ← List.append_nil (encode i), decode_encode]

/-- Settles O6: each word written out is the encoding of its operation, so the round trip decodes it. -/
theorem workedEncodingsDecode : Obligations.WorkedEncodingsDecode :=
  ⟨decode_of_encode_eq rfl, decode_of_encode_eq rfl, decode_of_encode_eq rfl, decode_of_encode_eq rfl,
   decode_of_encode_eq rfl, decode_of_encode_eq rfl, decode_of_encode_eq rfl, decode_of_encode_eq rfl,
   decode_of_encode_eq rfl, decode_of_encode_eq rfl⟩

end Sys2Proof

namespace Sys2Proof.Machine

/-! ### Results (30_encoding.md R68) -/

/-- A reader of results: the tag says which result the payload is of; none for bytes of no result. -/
def responseOfBytes : List Byte → Option Response
  | [0x00] => some .ok
  | [0x01] => some .errNotDivisible
  | [0x02] => some .noResult
  | [0x10, v] => some (.u8 v)
  | [0x11, v0, v1] => some (.u16 (ofLe16 v0 v1))
  | [0x12, v0, v1, v2, v3] => some (.u32 (ofLe32 v0 v1 v2 v3))
  | [0x13, t0, t1, t2, t3, v0, v1, v2, v3, n0, n1, n2, n3] =>
    some (.measurement (ofLe32 t0 t1 t2 t3) (ofLe32 v0 v1 v2 v3) (ofLe32 n0 n1 n2 n3))
  | [0x14, c0, c1, c2, c3, flags] => some (.errors (ofLe32 c0 c1 c2 c3) flags)
  | _ => none

theorem responseOfBytes_bytes (r : Response) : responseOfBytes r.bytes = some r := by
  cases r with
  | ok | errNotDivisible | noResult | u8 v => rfl
  | u16 v => simp [Response.bytes, le16, responseOfBytes]
  | u32 v => simp [Response.bytes, le32, responseOfBytes]
  | measurement timestamp value negCounts => simp [Response.bytes, le32, responseOfBytes]
  | errors count flags => simp [Response.bytes, le32, responseOfBytes]

theorem responseBytes_of_some {s : State} {r : Response} (h : s.resp = some r) : responseBytes s = r.bytes := by
  simp only [responseBytes, h]

theorem responseBytes_of_none {s : State} (h : s.resp = none) : responseBytes s = [] := by
  simp only [responseBytes, h]

/-- A host operation that completes has a result (00_scope.md R6). -/
theorem resp_of_host {i : Instr} {s t : State} (h : exec i s = .next t) (hk : i.kind = .host) : ∃ r, t.resp = some r := by
  have ht := effect_of_exec h
  cases i with
  | wcConfigure len div => obtain ⟨-, -, ⟨-, rfl⟩ | ⟨-, -, rfl⟩⟩ := ht <;> exact ⟨_, rfl⟩
  | wcStart => obtain ⟨-, ⟨-, rfl⟩ | ⟨-, -, rfl⟩⟩ := ht <;> exact ⟨_, rfl⟩
  | msmTake now => obtain ⟨-, ⟨-, rfl⟩ | ⟨-, rfl⟩⟩ := ht <;> exact ⟨_, rfl⟩
  | wcReset | npcReset => obtain ⟨-, -, rfl⟩ := ht; exact ⟨_, rfl⟩
  | pack a k j d => obtain ⟨-, r, -, rfl⟩ := ht; exact ⟨_, rfl⟩
  | wcStop | npcStart | npcStop | npcRead | npcRdlo | npcRdhi | msmReset | msmStatus | msmErrors | irqDefer m
  | irqResume m => obtain ⟨-, rfl⟩ := ht; exact ⟨_, rfl⟩
  | _ => cases hk

/-- An environment event and a handler step return nothing (00_scope.md R6). -/
theorem resp_of_not_host {i : Instr} {s t : State} (h : exec i s = .next t) (hk : i.kind ≠ .host) : t.resp = none := by
  have ht := effect_of_exec h
  cases i with
  | sysReset | evTick c | evSample r => subst ht; rfl
  | isrOvf => obtain ⟨-, -, rfl⟩ := ht; rfl
  | isrBnd | isrSmp => obtain ⟨-, rfl⟩ := ht; rfl
  | _ => exact absurd rfl hk

/-- Settles O7: a result is read back from its bytes, and each kind of operation sets the result port in one way. -/
theorem responseBytesDetermineTheResult : Obligations.ResponseBytesDetermineTheResult := by
  refine ⟨rfl, rfl, rfl, fun _ => rfl, ?u16, ?u32, ?measurement, ?errors, ?injective, ?kinds,
    fun s => ⟨responseBytes_of_none, fun _ => responseBytes_of_some⟩⟩
  case u16 => exact fun v0 v1 => congrArg (0x11 :: ·) (le16_ofLe16 v0 v1)
  case u32 => exact fun v0 v1 v2 v3 => congrArg (0x12 :: ·) (le32_ofLe32 v0 v1 v2 v3)
  case measurement =>
    intro t0 t1 t2 t3 v0 v1 v2 v3 n0 n1 n2 n3
    change 0x13 :: (le32 (ofLe32 t0 t1 t2 t3) ++ le32 (ofLe32 v0 v1 v2 v3) ++ le32 (ofLe32 n0 n1 n2 n3)) = _
    simp only [le32_ofLe32, List.cons_append, List.nil_append]
  case errors =>
    intro c0 c1 c2 c3 flags
    change 0x14 :: (le32 (ofLe32 c0 c1 c2 c3) ++ [flags]) = _
    simp only [le32_ofLe32, List.cons_append, List.nil_append]
  case injective =>
    intro r q h
    have hread := responseOfBytes_bytes r
    rw [h, responseOfBytes_bytes] at hread
    exact (Option.some.inj hread).symm
  case kinds =>
    intro i s t h
    refine ⟨fun hk => ?_, fun hk => ?_⟩
    · obtain ⟨r, hr⟩ := resp_of_host h hk
      exact ⟨r, hr, responseBytes_of_some hr⟩
    · have hr := resp_of_not_host h hk
      exact ⟨hr, responseBytes_of_none hr⟩

end Sys2Proof.Machine
end

section
/-! PROOFS. Steps along an encoded trace (30_encoding.md R61, R65; 60_exceptions.md R182), and the two ways `ACQ.ARM` ends
(30_encoding.md R67, 70_reset_and_hazards.md R203). -/

namespace Sys2Proof.Machine

/-! ### The step, by what the trace lists next -/

/-- In explicit mode, and in prompt mode while no handler is enabled, the trace says what comes next. -/
theorem nextOperation_eq_listedOperation {s : State} (h : s.mode = .explicit ∨ s.mode = .prompt ∧ nextHandler s = none) :
    nextOperation s = listedOperation s := by
  rcases h with hm | ⟨hm, hn⟩
  · simp only [nextOperation, hm]
  · simp only [nextOperation, hm, hn]

theorem step_of_decode_error {s : State} {e : DecodeError}
    (h : s.mode = .explicit ∨ s.mode = .prompt ∧ nextHandler s = none) (hd : decode s.trace = .error e) :
    step s = .refused (refusalOf e) := by
  simp only [step, nextOperation_eq_listedOperation h, listedOperation, hd]

theorem step_of_decode_ok {s : State} {i : Instr} {rest : List Byte}
    (h : s.mode = .explicit ∨ s.mode = .prompt ∧ nextHandler s = none) (hd : decode s.trace = .ok (i, rest))
    (ha : s.mode.admits i = true) : step s = exec i (s.withTrace rest) := by
  simp only [step, nextOperation_eq_listedOperation h, listedOperation, hd, ha, if_true]

/-- In prompt mode an enabled handler of highest priority is the next step (60_exceptions.md R182). -/
theorem step_handler {s : State} {x : Source} (hm : s.mode = .prompt) (hn : nextHandler s = some x) :
    step s = exec x.handler s := by
  simp only [step, nextOperation, hm, hn]

/-- In prompt mode a listed host operation is the next step once no handler is enabled (60_exceptions.md R182). -/
theorem step_host {s : State} {i : Instr} {rest : List Byte} (hm : s.mode = .prompt) (hn : nextHandler s = none)
    (hk : i.kind = .host) (ht : s.trace = encode i ++ rest) : step s = exec i (s.withTrace rest) := by
  refine step_of_decode_ok (.inr ⟨hm, hn⟩) (ht ▸ decode_encode i rest) ?_
  simp [hm, TraceMode.admits, Instr.wellFormed, hk]

/-- Settles O10: each of the three is a word the decoder finds no operation in. -/
theorem invalidTraceIsRefused : Obligations.InvalidTraceIsRefused := fun _ h =>
  ⟨fun ht => step_of_decode_error (e := .noWord) h (by rw [ht]; rfl),
   fun _ hd => step_of_decode_error h hd, fun _ hd => step_of_decode_error h hd⟩

/-- The bytes of a table row's word, cut to its own length, are the encoding of the operation it spells. -/
theorem firstWord_eq_encode {bs rest : List Byte} {i : Instr} (h : decode bs = .ok (i, rest)) :
    firstWord bs = encode i := by
  simp only [firstWord, h]
  simp [eq_encode_of_decode h]

theorem decode_of_decodeTableWord {nbits w : Nat} {i : Instr} (h : decodeTableWord nbits w = some i) :
    ∃ rest, decode (tableBytes nbits w) = .ok (i, rest) := by
  unfold decodeTableWord at h
  split at h
  next j rest hd => cases h; exact ⟨rest, hd⟩
  next => cases h

/-- Settles O11: the word placed is the operation's encoding, so the decoder takes exactly it off again. -/
theorem tableWordIsPerformedNext : Obligations.TableWordIsPerformedNext := by
  intro s nbits w i h
  obtain ⟨rest, hd⟩ := decode_of_decodeTableWord h
  have hplaced : decode (s.withFetchWord nbits w).trace = .ok (i, s.trace) := by
    rw [State.withFetchWord, firstWord_eq_encode hd]
    exact decode_encode i s.trace
  exact step_of_decode_ok (.inl rfl) hplaced rfl

/-! ### The handlers of the pending sources, one after another (60_exceptions.md R178) -/

/-- The pending sources in priority order: `staleHandlers` lists their handlers. -/
def pendingSources (s : State) : List Source := irqPriority.filter (pending · s)

theorem staleHandlers_eq_map (s : State) : staleHandlers s = (pendingSources s).map Source.handler := rfl

theorem pendingSources_nodup (s : State) : (pendingSources s).Nodup := List.Nodup.filter _ (by decide)

theorem pendingSources_eq_nil {s : State} (h : pendingSources s = []) : nothingPending s := by
  simpa [pendingSources, irqPriority, pending] using h

/-- With nothing deferred every pending source is enabled. -/
theorem enabled_of_mask_zero {s : State} (h : s.irqMask = 0) (x : Source) : enabled x s = pending x s := by
  simp [enabled, deferred, h]

theorem nextHandler_of_mask_zero {s : State} (h : s.irqMask = 0) : nextHandler s = (pendingSources s).head? := by
  simp only [nextHandler, enabled_of_mask_zero h, pendingSources, List.head?_filter]

/-- OVF has the highest priority (60_exceptions.md R178). -/
theorem nextHandler_ovf_of_mask_zero {s : State} (h : s.irqMask = 0) (hovf : s.ovfPending = true) :
    nextHandler s = some .ovf := by
  rw [nextHandler_eq, if_pos ((enabled_of_mask_zero h .ovf).trans hovf)]

theorem exec_isrBnd {s : State} (h : nextHandler s = some .bnd) :
    exec .isrBnd s = returnFromHandler (windowRearm boundaryTransition s) := by
  simp only [exec, execIsrBnd]
  exact takeInterrupt_of_turn _ h

theorem exec_isrSmp {s : State} (h : nextHandler s = some .smp) :
    exec .isrSmp s = returnFromHandler (sampleTransition { s with smpPending := false }) := by
  simp only [exec, execIsrSmp]
  exact takeInterrupt_of_turn _ h

/-- A handler step whose turn it is completes, but for `ISR.OVF` at `pc_high = 0xFF` (42_pulse_counter.md R103). -/
theorem handler_completes {x : Source} {s : State} (hn : nextHandler s = some x) (hovf : x = .ovf → s.pcHigh ≠ 0xFF) :
    ∃ t, exec x.handler s = .next t := by
  cases x with
  | ovf => exact ⟨_, exec_isrOvf hn (hovf rfl)⟩
  | bnd => exact ⟨_, exec_isrBnd hn⟩
  | smp => exact ⟨_, exec_isrSmp hn⟩

/-- A handler step acknowledges its own source, and touches neither the other pending flags nor the mask. -/
theorem handler_acknowledges {x : Source} {s t : State} (h : exec x.handler s = .next t) :
    t.irqMask = s.irqMask ∧ ∀ y, pending y t = (pending y s && decide (y ≠ x)) := by
  have ht := effect_of_exec h
  cases x with
  | ovf =>
    obtain ⟨-, -, rfl⟩ := ht
    exact ⟨rfl, fun y => by cases y <;> simp [pending]⟩
  | bnd =>
    rw [Source.handler, Effect, boundaryTransition_frame] at ht
    obtain ⟨-, rfl⟩ := ht
    exact ⟨rfl, fun y => by cases y <;> simp [pending]⟩
  | smp =>
    rw [Source.handler, Effect, sampleTransition_frame] at ht
    obtain ⟨-, rfl⟩ := ht
    exact ⟨rfl, fun y => by cases y <;> simp [pending]⟩

/-- With the first pending source served, the others are left in their order. -/
theorem pendingSources_of_served {x : Source} {xs : List Source} {s t : State} (hxs : pendingSources s = x :: xs)
    (h : ∀ y, pending y t = (pending y s && decide (y ≠ x))) : pendingSources t = xs := by
  have hnot : x ∉ xs := (List.nodup_cons.mp (hxs ▸ pendingSources_nodup s)).1
  calc pendingSources t = (pendingSources s).filter (fun y => decide (y ≠ x)) := by
        simp only [pendingSources, List.filter_filter, h, Bool.and_comm]
    _ = xs := by
        rw [hxs, List.filter_cons_of_neg (by simp), List.filter_eq_self]
        exact fun y hy => decide_eq_true fun hyx => hnot (hyx ▸ hy)

/-- With nothing deferred, a run in prompt mode serves the pending sources in priority order and takes nothing off the
trace. OVF can only be the first of them, so `pc_high = 0xFF` matters in the first state alone. -/
theorem serves_pending {xs : List Source} {s : State} (hxs : pendingSources s = xs) (hm : s.mode = .prompt)
    (hmask : s.irqMask = 0) (hovf : s.ovfPending = true → s.pcHigh ≠ 0xFF) :
    ∃ u, execAll (xs.map Source.handler) s = .next u ∧ runSteps xs.length s = .next u ∧ nothingPending u ∧
      u.irqMask = 0 ∧ u.mode = .prompt ∧ u.trace = s.trace := by
  induction xs generalizing s with
  | nil => exact ⟨s, rfl, rfl, pendingSources_eq_nil hxs, hmask, hm, rfl⟩
  | cons x xs ih =>
    have hn : nextHandler s = some x := by rw [nextHandler_of_mask_zero hmask, hxs]; rfl
    have hturn : pending x s = true := enabled_of_mask_zero hmask x ▸ enabled_of_nextHandler hn
    obtain ⟨t, ht⟩ := handler_completes hn fun hx => hovf (by subst hx; exact hturn)
    obtain ⟨htmask, hack⟩ := handler_acknowledges ht
    obtain ⟨httrace, htmode⟩ := exec_keeps_trace ht
    have htovf : t.ovfPending ≠ true := by
      intro hp
      obtain ⟨hps, hne⟩ : s.ovfPending = true ∧ Source.ovf ≠ x := by
        simpa [pending] using (hack .ovf).symm.trans hp
      exact hne (Option.some.inj ((nextHandler_ovf_of_mask_zero hmask hps).symm.trans hn))
    obtain ⟨u, hexec, hrun, hu, humask, humode, hutrace⟩ :=
      ih (pendingSources_of_served hxs hack) (htmode.trans hm) (htmask.trans hmask) fun hp => absurd hp htovf
    refine ⟨u, ?_, ?_, hu, humask, humode, hutrace.trans httrace⟩
    · rw [List.map_cons, execAll_cons _ ht, hexec]
    · rw [List.length_cons, runSteps_succ _ ((step_handler hm hn).trans ht), hrun]

/-! ### A run of listed host operations -/

theorem hostMayAct_of_nothingPending {s : State} (h : nothingPending s) : hostMayAct s := by
  obtain ⟨ho, hb, hs⟩ := h
  exact nextHandler_of_nothingPending ho hb hs

/-- No host operation raises a source (10_state.md R34). -/
theorem host_keeps_nothingPending {i : Instr} {s t : State} (h : exec i s = .next t) (hk : i.kind = .host)
    (hp : nothingPending s) : nothingPending t := by
  have keeps (e : Element) : e.mayWrite i = false → e.same s t := onlyListedOperationsWriteAnElement e i s t h
  obtain ⟨ho, hb, hs⟩ := hp
  cases i with
  | sysReset | evTick c | evSample r | isrOvf | isrBnd | isrSmp => cases hk
  | wcReset =>
    obtain ⟨-, -, rfl⟩ := effect_of_exec h
    exact ⟨ho, rfl, hs⟩
  | _ => exact ⟨(keeps .ovfPending rfl).symm.trans ho, (keeps .bndPending rfl).symm.trans hb,
      (keeps .smpPending rfl).symm.trans hs⟩

/-- An operation does the same whatever trace remains. -/
theorem exec_withTrace {i : Instr} {s t : State} {bs : List Byte} (h : exec i (s.withTrace bs) = .next t)
    (cs : List Byte) : exec i (s.withTrace cs) = .next (t.withTrace cs) := by
  obtain ⟨-, hmode⟩ := exec_keeps_trace h
  have hu : exec i (s.withTrace cs) = outcomeUnder s.mode cs (exec i (s.withTrace bs)) :=
    exec_under i s.mode cs (s.withTrace bs)
  rw [hu, h, ← show t.mode = s.mode from hmode]
  rfl

theorem execAll_cons_next {i : Instr} {is : List Instr} {s t : State} (h : execAll (i :: is) s = .next t) :
    ∃ u, exec i s = .next u ∧ execAll is u = .next t := by
  unfold execAll at h
  split at h
  next u hu => exact ⟨u, hu, h⟩
  next => cases h
  next => cases h

/-- With nothing pending a run in prompt mode performs the host operations its trace lists. -/
theorem runSteps_host {is : List Instr} {bs : List Byte} {s t : State} (hm : s.mode = .prompt) (hp : nothingPending s)
    (hk : ∀ i ∈ is, i.kind = .host) (ht : s.trace = encodeTrace is ++ bs)
    (h : execAll is (s.withTrace bs) = .next t) : runSteps is.length s = .next t := by
  induction is generalizing s with
  | nil =>
    have hs : s.withTrace bs = s := by rw [← show s.trace = bs from ht]; rfl
    rwa [hs] at h
  | cons i is ih =>
    obtain ⟨hki, hkis⟩ := List.forall_mem_cons.mp hk
    obtain ⟨u, hu, hrest⟩ := execAll_cons_next h
    obtain ⟨hutrace, humode⟩ := exec_keeps_trace hu
    rw [encodeTrace_cons, List.append_assoc] at ht
    have hstep := (step_host hm (hostMayAct_of_nothingPending hp) hki ht).trans (exec_withTrace hu _)
    have hback : (u.withTrace (encodeTrace is ++ bs)).withTrace bs = u := by
      rw [← show u.trace = bs from hutrace]; rfl
    rw [List.length_cons, runSteps_succ _ hstep]
    exact ih (humode.trans hm) (host_keeps_nothingPending (t := u) hu hki hp) hkis rfl (hback.symm ▸ hrest)

/-! ### The operations of `ACQ.ARM`, where they complete (70_reset_and_hazards.md R203) -/

theorem exec_irqResume_all {s : State} (h : hostMayAct s) :
    exec (.irqResume 0b111) s = .next { s with irqMask := 0, resp := some .ok } := by
  have hmask : s.irqMask &&& ~~~(0b111 : Bits3) = 0 := by
    rw [show ~~~(0b111 : Bits3) = 0 by decide]
    exact BitVec.and_zero
  rw [← hmask]
  exact hostOperation_of_mayAct _ h

theorem exec_wcStop {s : State} (h : hostMayAct s) : exec .wcStop s = .next { s with wcRun := false, resp := some .ok } :=
  hostOperation_of_mayAct _ h

theorem exec_npcStop {s : State} (h : hostMayAct s) : exec .npcStop s = .next { s with pcRun := false, resp := some .ok } :=
  hostOperation_of_mayAct _ h

theorem exec_npcStart {s : State} (h : hostMayAct s) : exec .npcStart s = .next { s with pcRun := true, resp := some .ok } :=
  hostOperation_of_mayAct _ h

theorem exec_msmReset {s : State} (h : hostMayAct s) :
    exec .msmReset s = .next { s with status := .clean, resp := some .ok } :=
  hostOperation_of_mayAct _ h

theorem exec_wcConfigure_notDivisible {s : State} {len : Word} {div : Half} (h : hostMayAct s) (hrun : s.wcRun = false)
    (hd : notDivisible len div = true) : exec (.wcConfigure len div) s = .next (s.ret .errNotDivisible) := by
  simp only [exec, execWcConfigure]
  rw [hostOperation_of_mayAct _ h, if_neg (by simp [hrun]), if_pos hd]
  rfl

theorem exec_wcConfigure_accepted {s : State} {len : Word} {div : Half} (h : hostMayAct s) (hrun : s.wcRun = false)
    (hd : notDivisible len div = false) (hl : windowTooShortOrLong len div = false) :
    exec (.wcConfigure len div) s = .next { s with winLen := len, winDiv := div, resp := some .ok } := by
  simp only [exec, execWcConfigure]
  rw [hostOperation_of_mayAct _ h, if_neg (by simp [hrun]), if_neg (by simp [hd]), if_neg (by simp [hl])]
  rfl

/-- With no boundary pending, `WC.RESET` only zeroes the stages. -/
theorem exec_wcReset_noBoundary {s : State} (h : hostMayAct s) (hrun : s.wcRun = false) (hb : s.bndPending = false) :
    exec .wcReset s = .next { s with wcLow := 0, wcHigh := 0, resp := some .ok } := by
  have hclear : clearWindow s = { s with wcLow := 0, wcHigh := 0 } := by
    simp [clearWindow, Config.lowInit, Config.highInit, hb]
  simp only [exec, execWcReset]
  rw [hostOperation_of_mayAct _ h, if_neg (by simp [hrun]), completes, hclear]
  rfl

theorem exec_npcReset {s : State} (h : hostMayAct s) (hrun : s.pcRun = false) :
    exec .npcReset s = .next { s with pcLow := 0, pcHigh := 0, resp := some .ok } := by
  simp only [exec, execNpcReset]
  rw [hostOperation_of_mayAct _ h, if_neg (by simp [hrun])]
  rfl

theorem exec_wcStart_fresh {s : State} (h : hostMayAct s) (hrun : s.wcRun = false) (hf : freshlyReset s = true) :
    exec .wcStart s = .next { s with wcRun := true, resp := some .ok } := by
  simp only [exec, execWcStart]
  rw [hostOperation_of_mayAct _ h, if_neg (by simp [hrun]), if_pos hf]
  rfl

/-- A run of operations, from what its first does and what the others then come to. -/
theorem execAll_cons_of {i : Instr} {is : List Instr} {s t : State} {r : Host.Outcome State Fault Refusal}
    (h : exec i s = .next t) (hrest : execAll is t = r) : execAll (i :: is) s = r :=
  (execAll_cons is h).trans hrest

/-- The operations of `ACQ.ARM` that come after its first. -/
def armRest (len : Word) (div : Half) : List Instr :=
  .wcStop :: .npcStop :: .wcConfigure len div :: (if notDivisible len div then [] else armStart)

theorem acqArm_expand (len : Word) (div : Half) : (Pseudo.acqArm len div).expand = .irqResume 0b111 :: armRest len div := rfl

theorem armRest_kind (len : Word) (div : Half) : ∀ i ∈ armRest len div, i.kind = .host := by
  unfold armRest
  cases notDivisible len div <;> simp [armStart, Instr.kind]

/-- The two stops and the configuration, refused with `Err(NotDivisible)`, leave the counters stopped. -/
theorem execAll_armRest_notDivisible {s : State} {len : Word} {div : Half} (hp : nothingPending s)
    (hd : notDivisible len div = true) :
    execAll (armRest len div) s = .next { s with wcRun := false, pcRun := false, resp := some .errNotDivisible } := by
  have hact := hostMayAct_of_nothingPending hp
  rw [armRest, if_pos hd]
  exact execAll_cons_of (exec_wcStop hact) <| execAll_cons_of (exec_npcStop hact) <|
    execAll_cons_of (exec_wcConfigure_notDivisible hact rfl hd) rfl

/-- Configured and stopped, the last five operations zero and start both counters and clear the status. -/
theorem execAll_armStart {s : State} (hp : nothingPending s) (hw : s.wcRun = false) (hpc : s.pcRun = false)
    (hdiv : s.winDiv ≠ 0) :
    execAll armStart s = .next { s with wcLow := 0, wcHigh := 0, wcRun := true, pcLow := 0, pcHigh := 0, pcRun := true,
                                        status := .clean, resp := some .ok } := by
  have hact := hostMayAct_of_nothingPending hp
  obtain ⟨-, hb, -⟩ := hp
  exact execAll_cons_of (exec_wcReset_noBoundary hact hw hb) <| execAll_cons_of (exec_npcReset hact hpc) <|
    execAll_cons_of (exec_msmReset hact) <| execAll_cons_of (exec_npcStart hact) <|
    execAll_cons_of (exec_wcStart_fresh hact hw ((freshlyReset_iff _).mpr ⟨hdiv, rfl, rfl, hb⟩)) rfl

theorem execAll_armRest_accepted {s : State} {len : Word} {div : Half} (hp : nothingPending s)
    (hd : notDivisible len div = false) (hl : windowTooShortOrLong len div = false) (hdiv : div ≠ 0) :
    execAll (armRest len div) s =
      .next { s with winLen := len, winDiv := div, wcLow := 0, wcHigh := 0, wcRun := true, pcLow := 0, pcHigh := 0,
                     pcRun := true, status := .clean, resp := some .ok } := by
  have hact := hostMayAct_of_nothingPending hp
  rw [armRest, if_neg (by simp [hd])]
  exact execAll_cons_of (exec_wcStop hact) <| execAll_cons_of (exec_npcStop hact) <|
    execAll_cons_of (exec_wcConfigure_accepted hact rfl hd hl) (execAll_armStart hp rfl rfl hdiv)

/-! ### `ACQ.ARM` -/

/-- The state after the first operation of a trace that begins with `IRQ.RESUME` of every source. -/
def resumed (s : State) (bs : List Byte) : State := { s with irqMask := 0, trace := bs, resp := some .ok }

theorem step_resume {s : State} {bs : List Byte} (hm : s.mode = .prompt) (hact : hostMayAct s)
    (ht : s.trace = encode (.irqResume 0b111) ++ bs) : step s = .next (resumed s bs) :=
  (step_host hm hact rfl ht).trans (exec_irqResume_all hact)

/-- The encoded expansion, taken apart into its first operation and the others. -/
theorem acqArm_encode_append (len : Word) (div : Half) (rest : List Byte) :
    (Pseudo.acqArm len div).encode ++ rest = encode (.irqResume 0b111) ++ (encodeTrace (armRest len div) ++ rest) := by
  rw [Pseudo.encode, acqArm_expand, encodeTrace_cons, List.append_assoc]

/-- A trace of `ACQ.ARM` in prompt mode: its first operation ends the deferrals, the stale handlers run, leaving `u`, and
the other operations then do from `u` what they do one after another. -/
theorem acqArm_runs {len : Word} {div : Half} {rest : List Byte} {s : State} (hm : s.mode = .prompt) (hact : hostMayAct s)
    (hovf : s.ovfPending = true → s.pcHigh ≠ 0xFF) (ht : s.trace = (Pseudo.acqArm len div).encode ++ rest) :
    ∃ u : State, execAll (staleHandlers s) { s with irqMask := 0, trace := u.trace, resp := some .ok } = .next u ∧
      runSteps (1 + (staleHandlers s).length) s = .next u ∧ nothingPending u ∧ u.irqMask = 0 ∧
      ∀ t, execAll (armRest len div) (u.withTrace rest) = .next t →
        runSteps (1 + (armRest len div).length + (staleHandlers s).length) s = .next t := by
  rw [acqArm_encode_append] at ht
  have hfirst := step_resume hm hact ht
  obtain ⟨u, hexec, hrun, hp, hmask, hmode, htrace⟩ :=
    serves_pending (s := resumed s (encodeTrace (armRest len div) ++ rest)) rfl hm rfl hovf
  have hstale : runSteps (1 + (staleHandlers s).length) s = .next u := by
    rw [Nat.add_comm, runSteps_succ _ hfirst, staleHandlers_eq_map, List.length_map]
    exact hrun
  refine ⟨u, ?_, hstale, hp, hmask, fun t hall => ?_⟩
  · rw [htrace]
    exact hexec
  · rw [Nat.add_right_comm, runSteps_add _ hstale]
    exact runSteps_host hmode hp (armRest_kind len div) htrace hall

/-- A stale `ISR.OVF` at `pc_high = 0xFF` is the step after the first, and is refused (42_pulse_counter.md R103). -/
theorem acqArm_refused {len : Word} {div : Half} {rest : List Byte} {s : State} (hm : s.mode = .prompt)
    (hact : hostMayAct s) (hovf : s.ovfPending = true) (hhigh : s.pcHigh = 0xFF)
    (ht : s.trace = (Pseudo.acqArm len div).encode ++ rest) : runSteps 2 s = .refused .highByteOverflow := by
  rw [acqArm_encode_append] at ht
  rw [runSteps_succ 1 (step_resume hm hact ht)]
  generalize encodeTrace (armRest len div) ++ rest = bs
  have hn : nextHandler (resumed s bs) = some .ovf := nextHandler_ovf_of_mask_zero rfl hovf
  have hstep : step (resumed s bs) = .refused .highByteOverflow := by
    rw [step_handler (s := resumed s bs) hm hn]
    simp only [Source.handler, exec, execIsrOvf]
    rw [takeInterrupt_of_turn _ hn, if_pos (show (resumed s bs).pcHigh = 0xFF from hhigh)]
  simp only [runSteps, hstep]

/-- Settles O58: after the stale handlers the eight other operations all complete, the window being one that
`WC.CONFIGURE` accepts. -/
theorem acqArmStartsAnAcquisition : Obligations.AcqArmStartsAnAcquisition := by
  intro len div rest s hm hact hdiv hlen hmod hmax ht
  have hd : notDivisible len div = false := (notDivisible_eq_false len div).mpr ⟨hdiv, hmod⟩
  have hl : windowTooShortOrLong len div = false := (windowTooShortOrLong_eq_false len div).mpr ⟨hlen, hmax⟩
  refine ⟨fun hovf hhigh => acqArm_refused hm hact hovf hhigh ht, fun hovf => ?_⟩
  obtain ⟨u, hexec, hstale, hp, hmask, hrun⟩ := acqArm_runs hm hact hovf ht
  have hlength : (armRest len div).length = 8 := by rw [armRest, hd]; rfl
  rw [hlength] at hrun
  exact ⟨u, hexec, hstale, hp, hmask, hrun _ (execAll_armRest_accepted hp hd hl hdiv)⟩

/-- Settles O59: after the stale handlers the two stops complete and `WC.CONFIGURE` writes nothing. -/
theorem acqArmStopsOnNotDivisible : Obligations.AcqArmStopsOnNotDivisible := by
  intro len div rest s hm hact hdiv hovf ht
  have hd : notDivisible len div = true := (notDivisible_iff len div).mpr hdiv
  obtain ⟨u, hexec, hstale, hp, hmask, hrun⟩ := acqArm_runs hm hact hovf ht
  have hlength : (armRest len div).length = 3 := by rw [armRest, if_pos hd]; rfl
  rw [hlength] at hrun
  exact ⟨u, hexec, hstale, hp, hmask, hrun _ (execAll_armRest_notDivisible hp hd)⟩

end Sys2Proof.Machine
end

section
/-! PROOFS. The wide event counter (40_wide_event_counter.md R81 to R87): the position and the blanker over one clock event
and over any number of them. -/

namespace Sys2Proof.Machine

/-! ### The position as a number in mixed radix (40_wide_event_counter.md R81) -/

theorem atLastEvent_iff_atTop (s : State) : atLastEvent s ↔ lowAtTop s = true ∧ highAtTop s = true := by
  simp [atLastEvent, lowAtTop, highAtTop, subPerWin]

/-- Both digits of a number stand at their tops exactly if the number is the greatest of its radix. -/
theorem digitsAtTop_iff {low div high sub : Nat} (hlow : low < div) (hhigh : high < sub) :
    (low + 1 = div ∧ high + 1 = sub) ↔ high * div + low + 1 = sub * div := by
  constructor
  · rintro ⟨rfl, rfl⟩
    ring
  · intro h
    have htop : sub = high + 1 := by
      by_contra hne
      have hmul : (high + 2) * div ≤ sub * div := Nat.mul_le_mul_right div (by omega)
      rw [Nat.add_mul] at hmul
      omega
    rw [htop, Nat.succ_mul] at h
    omega

/-- A running counter's window is its sub-cycles times their length, nothing left over (10_state.md R35). -/
theorem WindowInv.winLen_eq {s : State} (h : WindowInv s) (hrun : s.wcRun = true) :
    s.winLen.toNat = subPerWin s * s.winDiv.toNat := by
  obtain ⟨h0, -⟩ | ⟨-, -, hmod, -, -⟩ := h.config
  · exact absurd h0 (h.configured hrun)
  · exact (Nat.div_mul_cancel (Nat.dvd_of_mod_eq_zero hmod)).symm

theorem WindowInv.subPerWin_le {s : State} (h : WindowInv s) (hrun : s.wcRun = true) : subPerWin s ≤ 65536 := by
  obtain ⟨h0, -⟩ | ⟨-, -, -, -, hmax⟩ := h.config
  · exact absurd h0 (h.configured hrun)
  · exact hmax

theorem WindowInv.position_lt {s : State} (h : WindowInv s) (hrun : s.wcRun = true) : position s < s.winLen.toNat := by
  obtain ⟨hlow, hhigh⟩ := h.stages hrun
  have hmul := Nat.mul_le_mul_right s.winDiv.toNat (Nat.succ_le_of_lt hhigh)
  rw [Nat.succ_mul] at hmul
  rw [h.winLen_eq hrun, position]
  omega

/-- A running counter's next event completes the window exactly at the last position. -/
theorem WindowInv.atLastEvent_iff {s : State} (h : WindowInv s) (hrun : s.wcRun = true) :
    atLastEvent s ↔ position s + 1 = s.winLen.toNat := by
  obtain ⟨hlow, hhigh⟩ := h.stages hrun
  rw [h.winLen_eq hrun]
  exact digitsAtTop_iff hlow hhigh

/-! ### One clock event -/

/-- The event at the last position is the boundary (40_wide_event_counter.md R82). -/
theorem wecAdvance_of_atLastEvent (len : Half) {s : State} (hrun : s.wcRun = true) (hlast : atLastEvent s) :
    wecAdvance len s =
      { s with wcLow := 0, wcHigh := 0, bndPending := true, blankOut := true, blankCnt := len } := by
  obtain ⟨hlow, hhigh⟩ := (atLastEvent_iff_atTop s).mp hlast
  simp [wecAdvance, hrun, hlow, hhigh, boundary, blankTrigger, Config.hasBlanker]

/-- Away from the boundary the window counter leaves the blanker alone. -/
theorem wecAdvance_blanker_of_not (len : Half) {s : State} (h : ¬ (s.wcRun = true ∧ atLastEvent s)) :
    (wecAdvance len s).blankOut = s.blankOut ∧ (wecAdvance len s).blankCnt = s.blankCnt := by
  rcases wecAdvance_cases len s with ⟨-, he⟩ | ⟨-, -, he⟩ | ⟨-, -, -, he⟩ | ⟨hrun, hlow, hhigh, -⟩
  · rw [he]; exact ⟨rfl, rfl⟩
  · rw [he]; exact ⟨rfl, rfl⟩
  · rw [he]; exact ⟨rfl, rfl⟩
  · exact absurd ⟨hrun, (atLastEvent_iff_atTop s).mpr ⟨hlow, hhigh⟩⟩ h

/-- An event counts one on: the low stage up, or with a carry into the high stage, or both stages back to zero at the window
length (40_wide_event_counter.md R81). -/
theorem position_wecAdvance (len : Half) {s : State} (h : WindowInv s) (hrun : s.wcRun = true) :
    position (wecAdvance len s) = (position s + 1) % s.winLen.toNat := by
  obtain ⟨hlow, hhigh⟩ := h.stages hrun
  have hlt := h.position_lt hrun
  by_cases hlast : atLastEvent s
  · rw [wecAdvance_of_atLastEvent len hrun hlast, (h.atLastEvent_iff hrun).mp hlast, Nat.mod_self]
    simp [position]
  · have hne : position s + 1 ≠ s.winLen.toNat := mt (h.atLastEvent_iff hrun).mpr hlast
    rw [Nat.mod_eq_of_lt (by omega)]
    rcases wecAdvance_cases len s with ⟨h0, -⟩ | ⟨-, hl, he⟩ | ⟨-, hl, hh, he⟩ | ⟨-, hl, hh, -⟩
    · simp [hrun] at h0
    · have hsucc : (s.wcLow + 1).toNat = s.wcLow.toNat + 1 := toNat_add_one _ (by have := s.winDiv.isLt; omega)
      simp only [he, position, hsucc]
      omega
    · have hltop : s.wcLow.toNat + 1 = s.winDiv.toNat := by simpa [lowAtTop] using hl
      have hhtop : s.wcHigh.toNat + 1 ≠ subPerWin s := by simpa [highAtTop] using hh
      have hmax := h.subPerWin_le hrun
      have hsucc : (s.wcHigh + 1).toNat = s.wcHigh.toNat + 1 := toNat_add_one _ (by omega)
      have hzero : (0 : Half).toNat = 0 := rfl
      simp only [he, position, hsucc, hzero, Nat.succ_mul]
      omega
    · exact absurd ((atLastEvent_iff_atTop s).mpr ⟨hl, hh⟩) hlast

theorem blankAdvance_of_asserted {s : State} (h : s.blankOut = true) :
    blankAdvance s = { s with blankCnt := s.blankCnt - 1, blankOut := decide (s.blankCnt - 1 ≠ 0) } := if_pos h

theorem blankAdvance_of_idle {s : State} (h : s.blankOut = false) : blankAdvance s = s := by
  rw [blankAdvance, if_neg (by simp [h])]

/-- The blanker is asserted while its count is not used up (10_state.md R35). -/
theorem BlankerInv.asserted_iff {s : State} (h : BlankerInv s) : s.blankOut = true ↔ 0 < s.blankCnt.toNat := by
  rw [← Bool.not_eq_false, h.1, Nat.pos_iff_ne_zero]
  exact not_congr ⟨fun h0 => by rw [h0]; rfl, fun h0 => BitVec.eq_of_toNat_eq h0⟩

/-- Under the invariant `BLANK.ADVANCE` counts down to zero and stays there (40_wide_event_counter.md R84). -/
theorem BlankerInv.blankAdvance_blankCnt {s : State} (h : BlankerInv s) :
    (blankAdvance s).blankCnt.toNat = s.blankCnt.toNat - 1 := by
  cases hout : s.blankOut with
  | true =>
    have hpos := h.asserted_iff.mp hout
    have hne : s.blankCnt ≠ 0 := by rintro h0; simp [h0] at hpos
    rw [blankAdvance_of_asserted hout]
    exact toNat_sub_one _ hne
  | false =>
    rw [blankAdvance_of_idle hout, h.1.mp hout]
    rfl

/-- The state a clock event leads to. -/
def afterTick (c : Bool) (s : State) : State := (clockEvent Config.blankLen c s).silent

theorem exec_evTick (c : Bool) (s : State) : exec (.evTick c) s = .next (afterTick c s) := rfl

/-- The state the window counter's part of a clock event starts from: the comparator sampled, the blanker and the pulse
counter advanced (41_polarity_synchronizer.md R90). -/
def beforeWindow (c : Bool) (s : State) : State :=
  let b := blankAdvance s
  let p := if c == Config.activeLevel then npcCount s else s
  { s with polQ := c, blankCnt := b.blankCnt, blankOut := b.blankOut, pcLow := p.pcLow, ovfPending := p.ovfPending }

theorem afterTick_eq (c : Bool) (s : State) :
    afterTick c s = (wecAdvance Config.blankLen (beforeWindow c s)).silent :=
  congrArg State.silent (clockEvent_eq Config.blankLen c s)

/-- A clock event leaves everything but the elements of 41_polarity_synchronizer.md R90 as it was. -/
theorem afterTick_frame (c : Bool) (s : State) :
    afterTick c s =
      { s with polQ := (afterTick c s).polQ, blankCnt := (afterTick c s).blankCnt, blankOut := (afterTick c s).blankOut,
               pcLow := (afterTick c s).pcLow, ovfPending := (afterTick c s).ovfPending, wcLow := (afterTick c s).wcLow,
               wcHigh := (afterTick c s).wcHigh, bndPending := (afterTick c s).bndPending, resp := none } :=
  congrArg State.silent (clockEvent_frame Config.blankLen c s)

@[simp] theorem afterTick_winLen (c : Bool) (s : State) : (afterTick c s).winLen = s.winLen := by rw [afterTick_frame]
@[simp] theorem afterTick_wcRun (c : Bool) (s : State) : (afterTick c s).wcRun = s.wcRun := by rw [afterTick_frame]

theorem afterTick_windowInv (c : Bool) {s : State} (h : WindowInv s) : WindowInv (afterTick c s) :=
  (clockEvent_windowInv _ c h).silent

theorem afterTick_blankerInv (c : Bool) {s : State} (h : BlankerInv s) : BlankerInv (afterTick c s) :=
  clockEvent_blankerInv c h

theorem position_afterTick (c : Bool) {s : State} (h : WindowInv s) (hrun : s.wcRun = true) :
    position (afterTick c s) = (position s + 1) % s.winLen.toNat := by
  rw [afterTick_eq]
  exact position_wecAdvance _ (s := beforeWindow c s) ⟨h.config, h.configured, h.stages⟩ hrun

/-- BND becomes pending exactly at the event that makes the window's length full (40_wide_event_counter.md R82). -/
theorem afterTick_bndPending (c : Bool) {s : State} (h : WindowInv s) (hrun : s.wcRun = true) :
    (afterTick c s).bndPending = true ↔ s.bndPending = true ∨ position s + 1 = s.winLen.toNat := by
  rw [← h.atLastEvent_iff hrun]
  exact (clockEvent_bndPending _ c s).trans (or_congr_right (and_iff_right hrun))

/-- A clock event leaves the stages and the boundary of a stopped counter alone. -/
theorem afterTick_of_stopped (c : Bool) {s : State} (hrun : s.wcRun = false) :
    afterTick c s = (beforeWindow c s).silent := by
  rw [afterTick_eq, wecAdvance, if_neg (by simp [beforeWindow, hrun])]

/-- Settles O29: with the position as a number the two stages count modulo the window length. -/
theorem evTickAdvancesThePosition : Obligations.EvTickAdvancesThePosition := by
  intro c s hinv
  obtain ⟨h, -, -⟩ := (inv_iff s).mp hinv
  refine ⟨_, exec_evTick c s, fun hrun => ⟨position_afterTick c h hrun, afterTick_bndPending c h hrun⟩, fun hrun => ?_⟩
  rw [afterTick_of_stopped c hrun]
  exact ⟨rfl, rfl, rfl⟩

/-- The boundary asserts the blanker for its whole length, whatever `BLANK.ADVANCE` made of it in the same event
(40_wide_event_counter.md R85). -/
theorem afterTick_blanker_of_atLastEvent (c : Bool) {s : State} (hrun : s.wcRun = true) (hlast : atLastEvent s) :
    (afterTick c s).blankOut = true ∧ (afterTick c s).blankCnt = Config.blankLen := by
  rw [afterTick_eq, wecAdvance_of_atLastEvent _ (s := beforeWindow c s) hrun hlast]
  exact ⟨rfl, rfl⟩

/-- Any other clock event does `BLANK.ADVANCE` to the blanker. -/
theorem afterTick_blanker_of_not (c : Bool) {s : State} (h : ¬ (s.wcRun = true ∧ atLastEvent s)) :
    (afterTick c s).blankOut = (blankAdvance s).blankOut ∧ (afterTick c s).blankCnt = (blankAdvance s).blankCnt := by
  rw [afterTick_eq]
  exact wecAdvance_blanker_of_not _ (s := beforeWindow c s) h

/-- Settles O30: the boundary asserts the blanker, and away from it `BLANK.ADVANCE` counts it down where it is asserted. -/
theorem evTickDrivesTheBlanker : Obligations.EvTickDrivesTheBlanker := by
  intro c s
  refine ⟨_, exec_evTick c s, afterTick_blanker_of_atLastEvent c, fun hnot => ?_⟩
  obtain ⟨hout, hcnt⟩ := afterTick_blanker_of_not (s := s) c (by rintro ⟨hrun, hlast⟩; simp [hrun, hlast] at hnot)
  rw [hout, hcnt]
  refine ⟨fun hasserted => ?_, fun hidle => ?_⟩
  · rw [blankAdvance_of_asserted hasserted]
    exact ⟨rfl, by simp⟩
  · rw [blankAdvance_of_idle hidle]
    exact ⟨rfl, hidle⟩

/-! ### Any number of clock events -/

/-- The state that clock events with these comparator operands lead to. -/
def afterTicks (cs : List Bool) (s : State) : State := cs.foldl (fun s c => afterTick c s) s

@[simp] theorem afterTicks_nil (s : State) : afterTicks [] s = s := rfl

@[simp] theorem afterTicks_cons (c : Bool) (cs : List Bool) (s : State) :
    afterTicks (c :: cs) s = afterTicks cs (afterTick c s) := rfl

theorem execAll_ticks (cs : List Bool) (s : State) : execAll (ticks cs) s = .next (afterTicks cs s) := by
  induction cs generalizing s with
  | nil => rfl
  | cons c cs ih => exact (execAll_cons (ticks cs) (exec_evTick c s)).trans (ih _)

theorem afterTicks_blankerInv (cs : List Bool) {s : State} (h : BlankerInv s) : BlankerInv (afterTicks cs s) := by
  induction cs generalizing s with
  | nil => exact h
  | cons c cs ih => exact ih (afterTick_blankerInv c h)

/-- No drift: each event adds one, and what the modulus takes off is whole windows (40_wide_event_counter.md R87, item 2). -/
theorem position_afterTicks (cs : List Bool) {s : State} (h : WindowInv s) (hrun : s.wcRun = true) :
    position (afterTicks cs s) = (position s + cs.length) % s.winLen.toNat := by
  induction cs generalizing s with
  | nil => exact (Nat.mod_eq_of_lt (h.position_lt hrun)).symm
  | cons c cs ih =>
    rw [afterTicks_cons, ih (afterTick_windowInv c h) ((afterTick_wcRun c s).trans hrun), afterTick_winLen,
      position_afterTick c h hrun, Nat.mod_add_mod, List.length_cons, Nat.add_assoc, Nat.add_comm 1]

/-- BND is raised by the event that completes the window and stays pending from there on. -/
theorem afterTicks_bndPending (cs : List Bool) {s : State} (h : WindowInv s) (hrun : s.wcRun = true) :
    (afterTicks cs s).bndPending = true ↔ s.bndPending = true ∨ s.winLen.toNat ≤ position s + cs.length := by
  induction cs generalizing s with
  | nil =>
    have hlt := h.position_lt hrun
    exact (or_iff_left (Nat.not_le.mpr hlt)).symm
  | cons c cs ih =>
    have hlt := h.position_lt hrun
    rw [afterTicks_cons, ih (afterTick_windowInv c h) ((afterTick_wcRun c s).trans hrun), afterTick_winLen,
      position_afterTick c h hrun, afterTick_bndPending c h hrun, List.length_cons]
    by_cases hlast : position s + 1 = s.winLen.toNat
    · exact iff_of_true (.inl (.inr hlast)) (.inr (by omega))
    · rw [Nat.mod_eq_of_lt (by omega), or_iff_left hlast, Nat.add_assoc, Nat.add_comm 1]

/-- Settles O31. -/
theorem ticksGiveThePositionModuloTheLength : Obligations.TicksGiveThePositionModuloTheLength := by
  intro cs s hinv hrun
  obtain ⟨h, -, -⟩ := (inv_iff s).mp hinv
  exact ⟨_, execAll_ticks cs s, position_afterTicks cs h hrun, afterTicks_bndPending cs h hrun⟩

/-- Away from the boundary a clock event takes one off the blanker's count. -/
theorem afterTick_blankCnt (c : Bool) {s : State} (h : BlankerInv s) (hnot : ¬ (s.wcRun = true ∧ atLastEvent s)) :
    (afterTick c s).blankCnt.toNat = s.blankCnt.toNat - 1 := by
  rw [(afterTick_blanker_of_not c hnot).2, h.blankAdvance_blankCnt]

/-- Where the window is not completed, clock events count the blanker down one by one (40_wide_event_counter.md R84). -/
theorem afterTicks_blankCnt (cs : List Bool) {s : State} (hw : WindowInv s) (hb : BlankerInv s)
    (hlen : s.wcRun = true → position s + cs.length < s.winLen.toNat) :
    (afterTicks cs s).blankCnt.toNat = s.blankCnt.toNat - cs.length := by
  induction cs generalizing s with
  | nil => rfl
  | cons c cs ih =>
    rw [List.length_cons] at hlen ⊢
    have hnot : ¬ (s.wcRun = true ∧ atLastEvent s) := by
      rintro ⟨hrun, hlast⟩
      have hfull := (hw.atLastEvent_iff hrun).mp hlast
      have hshort := hlen hrun
      omega
    have hrest : (afterTick c s).wcRun = true → position (afterTick c s) + cs.length < (afterTick c s).winLen.toNat := by
      rw [afterTick_wcRun, afterTick_winLen]
      intro hrun
      have hshort := hlen hrun
      rw [position_afterTick c hw hrun, Nat.mod_eq_of_lt (by omega)]
      omega
    rw [afterTicks_cons, ih (afterTick_windowInv c hw) (afterTick_blankerInv c hb) hrest, afterTick_blankCnt c hb hnot]
    omega

/-- Settles O32: the count goes down one by one, and the blanker is asserted while it is not used up. -/
theorem blankerStaysAssertedForItsCount : Obligations.BlankerStaysAssertedForItsCount := by
  intro cs s hinv hlen
  obtain ⟨hw, hb, -⟩ := (inv_iff s).mp hinv
  have hcnt := afterTicks_blankCnt cs hw hb hlen
  refine ⟨_, execAll_ticks cs s, hcnt, ?_⟩
  rw [(afterTicks_blankerInv cs hb).asserted_iff, hcnt]
  omega

/-! ### The blanker over many windows (40_wide_event_counter.md R87, item 4) -/

/-- The blanker's count is what the events since the last boundary have left of `BLANK_LEN`. -/
def BlankerFollows (s : State) : Prop := s.blankCnt.toNat = Config.blankLen.toNat - position s

/-- Each clock event keeps the blanker at the position: within the window both go on by one, at the boundary both start
anew. -/
theorem afterTick_blankerFollows (c : Bool) {s : State} (hw : WindowInv s) (hb : BlankerInv s) (hrun : s.wcRun = true)
    (hf : BlankerFollows s) : BlankerFollows (afterTick c s) := by
  have hlt := hw.position_lt hrun
  rw [BlankerFollows, position_afterTick c hw hrun]
  by_cases hlast : atLastEvent s
  · rw [(afterTick_blanker_of_atLastEvent c hrun hlast).2, (hw.atLastEvent_iff hrun).mp hlast, Nat.mod_self]
    rfl
  · have hne : position s + 1 ≠ s.winLen.toNat := mt (hw.atLastEvent_iff hrun).mpr hlast
    rw [afterTick_blankCnt c hb (fun h => hlast h.2), hf, Nat.mod_eq_of_lt (by omega)]
    omega

theorem afterTicks_blankerFollows (cs : List Bool) {s : State} (hw : WindowInv s) (hb : BlankerInv s)
    (hrun : s.wcRun = true) (hf : BlankerFollows s) : BlankerFollows (afterTicks cs s) := by
  induction cs generalizing s with
  | nil => exact hf
  | cons c cs ih =>
    exact ih (afterTick_windowInv c hw) (afterTick_blankerInv c hb) ((afterTick_wcRun c s).trans hrun)
      (afterTick_blankerFollows c hw hb hrun hf)

/-- Settles O60: the blanker follows the position, and that is the number of events modulo the window length. -/
theorem blankerFollowsTheWindows : Obligations.BlankerFollowsTheWindows := by
  intro cs s hinv hrun hpos _ hcnt
  obtain ⟨hw, hb, -⟩ := (inv_iff s).mp hinv
  have hstart : BlankerFollows s := by rw [BlankerFollows, hcnt, hpos]; rfl
  have hfollows : BlankerFollows (afterTicks cs s) := afterTicks_blankerFollows cs hw hb hrun hstart
  rw [BlankerFollows, position_afterTicks cs hw hrun, hpos, Nat.zero_add] at hfollows
  have hasserted : (afterTicks cs s).blankOut = true ↔ cs.length % s.winLen.toNat < Config.blankLen.toNat := by
    rw [(afterTicks_blankerInv cs hb).asserted_iff, hfollows]
    omega
  refine ⟨_, execAll_ticks cs s, hfollows, hasserted, fun hshort => hasserted.mpr ?_⟩
  have hwindow : 0 < s.winLen.toNat := (Nat.zero_le _).trans_lt (hw.position_lt hrun)
  exact (Nat.mod_lt _ hwindow).trans_le hshort

end Sys2Proof.Machine
end

section
/-! PROOFS. The capture of a whole window in prompt mode (41_polarity_synchronizer.md R92, 40_wide_event_counter.md R87): each
clock event with the handler of the wraparound it may cause, and `ISR.BND` at the boundary. -/

namespace Sys2Proof.Machine

/-! ### The pulses of a clock event -/

@[simp] theorem afterTick_pcRun (c : Bool) (s : State) : (afterTick c s).pcRun = s.pcRun := by rw [afterTick_frame]
@[simp] theorem afterTick_status (c : Bool) (s : State) : (afterTick c s).status = s.status := by rw [afterTick_frame]
@[simp] theorem afterTick_smpPending (c : Bool) (s : State) : (afterTick c s).smpPending = s.smpPending := by
  rw [afterTick_frame]
@[simp] theorem afterTick_irqMask (c : Bool) (s : State) : (afterTick c s).irqMask = s.irqMask := by rw [afterTick_frame]
@[simp] theorem afterTick_trace (c : Bool) (s : State) : (afterTick c s).trace = s.trace := by rw [afterTick_frame]
@[simp] theorem afterTick_mode (c : Bool) (s : State) : (afterTick c s).mode = s.mode := by rw [afterTick_frame]

theorem activeTicks_cons (c : Bool) (cs : List Bool) : activeTicks (c :: cs) = activeTicks [c] + activeTicks cs :=
  List.count_append (l₁ := [c])

/-- A wraparound moves 65536 pulses from the low word to the pending overflow, so that none is lost
(42_pulse_counter.md R100). -/
theorem pulseTotal_npcCount {s : State} (hrun : s.pcRun = true) (hovf : s.ovfPending = false) :
    pulseTotal (npcCount s) = pulseTotal s + 1 := by
  by_cases hlow : s.pcLow = 0xFFFF
  · simp [npcCount, pulseTotal, pulseCount, hrun, hovf, hlow]
  · have hne : s.pcLow.toNat ≠ 65535 := fun h => hlow (BitVec.eq_of_toNat_eq h)
    have hsucc : (s.pcLow + 1).toNat = s.pcLow.toNat + 1 := toNat_add_one _ (by have := s.pcLow.isLt; omega)
    simp only [npcCount, pulseTotal, pulseCount, hrun, hovf, hlow, hsucc, if_true, if_false]
    omega

/-- The window counter's part of a clock event leaves the pulses alone. -/
theorem pulseTotal_afterTick_eq (c : Bool) (s : State) : pulseTotal (afterTick c s) = pulseTotal (beforeWindow c s) := by
  rw [afterTick_eq, wecAdvance_frame]
  rfl

/-- With no wraparound left to handle, a clock event adds a pulse exactly if it is sampled at `ACTIVE_LEVEL`
(41_polarity_synchronizer.md R90). -/
theorem pulseTotal_afterTick (c : Bool) {s : State} (hrun : s.pcRun = true) (hovf : s.ovfPending = false) :
    pulseTotal (afterTick c s) = pulseTotal s + activeTicks [c] := by
  rw [pulseTotal_afterTick_eq]
  by_cases hc : c = Config.activeLevel
  · have hpart : pulseTotal (beforeWindow c s) = pulseTotal (npcCount s) := by
      rw [beforeWindow, npcCount_frame]
      simp [hc, pulseTotal, pulseCount]
    rw [hpart, pulseTotal_npcCount hrun hovf, activeTicks, hc, List.count_singleton_self]
  · have hpart : pulseTotal (beforeWindow c s) = pulseTotal s := by
      simp [beforeWindow, hc, pulseTotal, pulseCount]
    rw [hpart, activeTicks, List.count_singleton, if_neg (by simpa using hc), Nat.add_zero]

/-! ### A clock event in prompt mode, with the overflow it may raise -/

/-- In prompt mode a listed clock event is the next step once no handler is enabled (60_exceptions.md R182). -/
theorem step_evTick {s : State} {c : Bool} {rest : List Byte} (hm : s.mode = .prompt) (hn : nextHandler s = none)
    (ht : s.trace = encode (.evTick c) ++ rest) : step s = .next (afterTick c (s.withTrace rest)) :=
  (step_of_decode_ok (.inr ⟨hm, hn⟩) (ht ▸ decode_encode (.evTick c) rest) (by rw [hm]; rfl)).trans (exec_evTick c _)

/-- In prompt mode with nothing deferred a wraparound is handled at once, if there is one: the pending 65536 pulses go into
the high byte, which has room for them below 2^24 pulses (42_pulse_counter.md R103). -/
theorem serves_overflow {s : State} (hm : s.mode = .prompt) (hmask : s.irqMask = 0) (hlt : pulseTotal s < 2 ^ 24) :
    ∃ k high r, runSteps k s = .next { s with pcHigh := high, ovfPending := false, resp := r } ∧
      high.toNat * 65536 + s.pcLow.toNat = pulseTotal s := by
  cases hovf : s.ovfPending with
  | false =>
    refine ⟨0, s.pcHigh, s.resp, ?_, ?_⟩
    · rw [← hovf]
      rfl
    · simp [pulseTotal, pulseCount, hovf]
  | true =>
    rw [pulseTotal, pulseCount, hovf, if_pos rfl] at hlt ⊢
    have hhigh : s.pcHigh ≠ 0xFF := by
      intro h
      rw [h] at hlt
      have htop : (0xFF : Byte).toNat = 255 := rfl
      omega
    have hn := nextHandler_ovf_of_mask_zero hmask hovf
    refine ⟨1, s.pcHigh + 1, none, ?_, ?_⟩
    · rw [runSteps_succ 0 ((step_handler hm hn).trans (exec_isrOvf hn hhigh))]
      rfl
    · have hsucc : (s.pcHigh + 1).toNat = s.pcHigh.toNat + 1 := toNat_add_one _ (by omega)
      rw [hsucc]
      omega

/-! ### A window measured from its first event to its boundary -/

/-- A window of `len` events is being measured in prompt mode with nothing deferred: it stands at `pos`, `pulses` pulses are
counted, and of the sources at most BND is pending, as `full` says. -/
structure Measuring (len pos pulses : Nat) (full : Bool) (s : State) : Prop where
  mode : s.mode = .prompt
  irqMask : s.irqMask = 0
  ovfPending : s.ovfPending = false
  bndPending : s.bndPending = full
  smpPending : s.smpPending = false
  wcRun : s.wcRun = true
  pcRun : s.pcRun = true
  status : s.status = .prevCharge
  window : WindowInv s
  winLen : s.winLen.toNat = len
  position : position s = pos
  pulseCount : pulseCount s = pulses

/-- One clock event of a measured window, and the handler of its wraparound where there is one: the position goes on, the
pulse is counted, and BND is pending exactly if the window is full. -/
theorem Measuring.tick {len pos pulses : Nat} {s : State} {c : Bool} {rest : List Byte}
    (h : Measuring len pos pulses false s) (hlt : pulses + activeTicks [c] < 2 ^ 24)
    (ht : s.trace = encode (.evTick c) ++ rest) :
    ∃ k t, runSteps k s = .next t ∧ t.trace = rest ∧
      Measuring len ((pos + 1) % len) (pulses + activeTicks [c]) (decide (pos + 1 = len)) t := by
  have hstep := step_evTick h.mode (nextHandler_of_nothingPending h.ovfPending h.bndPending h.smpPending) ht
  have hw : WindowInv (s.withTrace rest) := ⟨h.window.config, h.window.configured, h.window.stages⟩
  have hpos : Machine.position (afterTick c (s.withTrace rest)) = (Machine.position s + 1) % s.winLen.toNat :=
    position_afterTick c hw h.wcRun
  have hbnd := afterTick_bndPending c hw h.wcRun
  have htotal : pulseTotal (afterTick c (s.withTrace rest)) = pulses + activeTicks [c] := by
    rw [pulseTotal_afterTick c (s := s.withTrace rest) h.pcRun h.ovfPending, ← h.pulseCount]
    simp [pulseTotal, h.ovfPending, Machine.pulseCount]
  obtain ⟨k, high, r, hrun, hcount⟩ := serves_overflow (s := afterTick c (s.withTrace rest))
    (by simpa using h.mode) (by simpa using h.irqMask) (htotal ▸ hlt)
  have hw' := afterTick_windowInv c hw
  refine ⟨k + 1, _, (runSteps_succ k hstep).trans hrun, by simp, ?_⟩
  exact {
    mode := by simpa using h.mode
    irqMask := by simpa using h.irqMask
    ovfPending := rfl
    bndPending := by
      rw [Bool.eq_iff_iff, decide_eq_true_iff, ← h.position, ← h.winLen]
      exact hbnd.trans (or_iff_right (by simp [h.bndPending]))
    smpPending := by simpa using h.smpPending
    wcRun := by simpa using h.wcRun
    pcRun := by simpa using h.pcRun
    status := by simpa using h.status
    window := ⟨hw'.config, hw'.configured, hw'.stages⟩
    winLen := by simpa using h.winLen
    position := by rw [← h.position, ← h.winLen, ← hpos]; rfl
    pulseCount := hcount.trans htotal }

/-- The clock events that fill a measured window leave its boundary pending and all their pulses counted. -/
theorem Measuring.ticks {len pos pulses : Nat} {s : State} {c : Bool} {cs : List Bool} {rest : List Byte}
    (h : Measuring len pos pulses false s) (hfull : pos + (c :: cs).length = len)
    (hlt : pulses + activeTicks (c :: cs) < 2 ^ 24) (ht : s.trace = encodeTrace (ticks (c :: cs)) ++ rest) :
    ∃ k t, runSteps k s = .next t ∧ t.trace = rest ∧ Measuring len 0 (pulses + activeTicks (c :: cs)) true t := by
  induction cs generalizing c pos pulses s with
  | nil =>
    obtain ⟨k, t, hrun, htrace, hm⟩ := h.tick hlt ht
    rw [List.length_singleton] at hfull
    rw [hfull, Nat.mod_self, decide_eq_true rfl] at hm
    exact ⟨k, t, hrun, htrace, hm⟩
  | cons d cs ih =>
    rw [activeTicks_cons, ← Nat.add_assoc] at hlt ⊢
    rw [List.length_cons] at hfull
    have hnot : pos + 1 ≠ len := by rw [List.length_cons] at hfull; omega
    obtain ⟨k, t, hrun, htrace, hm⟩ := h.tick (c := c) (rest := encodeTrace (Machine.ticks (d :: cs)) ++ rest) (by omega)
      (ht.trans (List.append_assoc _ _ _))
    rw [Nat.mod_eq_of_lt (by omega), decide_eq_false hnot] at hm
    obtain ⟨j, u, hrun', htrace', hm'⟩ := ih hm (by omega) hlt htrace
    exact ⟨k + j, u, (runSteps_add j hrun).trans hrun', htrace', hm'⟩

/-- At the boundary of a measured window `ISR.BND` captures its pulses and opens the next window at zero
(44_measurement_sm.md R132). -/
theorem Measuring.captured {len pos pulses : Nat} {s : State} (h : Measuring len pos pulses true s) :
    ∃ t, step s = .next t ∧ t.trace = s.trace ∧ t.status = .negativeCounts ∧ t.negCounts.toNat = pulses ∧
      Machine.position t = 0 ∧ Machine.pulseCount t = 0 ∧ nothingPending t ∧ t.wcRun = true ∧ t.pcRun = true := by
  have hn : nextHandler s = some .bnd := by
    simp [nextHandler_eq, enabled_of_mask_zero h.irqMask, pending, h.ovfPending, h.bndPending]
  have hcapture : boundaryTransition s =
      { s with negCounts := combine s.pcLow s.pcHigh, status := .negativeCounts } := by
    rw [boundaryTransition, h.status]
  refine ⟨_, (step_handler h.mode hn).trans (exec_isrBnd hn), ?_⟩
  rw [windowRearm_boundary, hcapture]
  exact ⟨rfl, rfl, (combine_toNat _ _).trans h.pulseCount, by simp [Machine.position],
    by simp [Machine.pulseCount], ⟨h.ovfPending, rfl, h.smpPending⟩, h.wcRun, h.pcRun⟩

/-- Settles O40: the window's events count its pulses over any wraparounds, and `ISR.BND` captures the count. -/
theorem windowCapturesItsActiveTicks : Obligations.WindowCapturesItsActiveTicks := by
  intro cs rest s hinv hm hmask ⟨hovf, hbnd, hsmp⟩ hw hp hpos hcount hstatus hlen hshort ht
  obtain ⟨hwindow, -, -⟩ := (inv_iff s).mp hinv
  have hopen : Measuring s.winLen.toNat 0 0 false s :=
    ⟨hm, hmask, hovf, hbnd, hsmp, hw, hp, hstatus, hwindow, rfl, hpos, hcount⟩
  have hactive : activeTicks cs ≤ cs.length := List.count_le_length
  cases cs with
  | nil =>
    have hlt := hwindow.position_lt hw
    rw [← hlen] at hlt
    cases hlt
  | cons c cs =>
    obtain ⟨k, t, hrun, htrace, hfull⟩ := hopen.ticks (by omega) (by omega) ht
    rw [Nat.zero_add] at hfull
    obtain ⟨u, hstep, htrace', hcaptured⟩ := hfull.captured
    exact ⟨k + 1, u, (runSteps_add 1 hrun).trans (runSteps_succ 0 hstep), htrace'.trans htrace, hcaptured⟩

end Sys2Proof.Machine
end

section
/-! PROOFS. The clock event's sample of the comparator and its frame (41_polarity_synchronizer.md R90), and the pulse count
that `NPC.READ` returns after any clock events in prompt mode (42_pulse_counter.md R105, R108). -/

namespace Sys2Proof.Machine

/-! ### Sampling the comparator -/

@[simp] theorem afterTick_polQ (c : Bool) (s : State) : (afterTick c s).polQ = c := by
  rw [afterTick_eq, wecAdvance_frame]
  rfl

/-- Settles O27: the frame of a clock event is that of its three parts together. -/
theorem evTickSamplesAndKeepsTheRest : Obligations.EvTickSamplesAndKeepsTheRest := fun c s =>
  ⟨afterTick c s, exec_evTick c s, afterTick_polQ c s, rfl, afterTick_frame c s⟩

/-! ### The handler of a wraparound, whatever else is deferred -/

/-- Not deferred, OVF is enabled exactly while it is pending (00_scope.md R6). -/
theorem enabled_ovf_of_open {s : State} (hopen : s.irqMask.getLsbD 0 = false) : enabled .ovf s = s.ovfPending := by
  rw [enabled, deferred, sourceNumber, hopen]
  exact Bool.and_true _

theorem pulseTotal_of_noOverflow {s : State} (h : s.ovfPending = false) : pulseTotal s = pulseCount s := by
  rw [pulseTotal, if_neg (by simp [h]), Nat.add_zero]

/-- `ISR.OVF` puts the pulses of the pending wraparound into the high byte, which has room for them below 2^24 pulses
(42_pulse_counter.md R103). -/
theorem isrOvf_pulseCount {s : State} (hn : nextHandler s = some .ovf) (hlt : pulseTotal s < 2 ^ 24) :
    ∃ high, exec .isrOvf s = .next { s with pcHigh := high, ovfPending := false, resp := none } ∧
      high.toNat * 65536 + s.pcLow.toNat = pulseTotal s := by
  have hovf : s.ovfPending = true := (Bool.and_eq_true_iff.mp (enabled_of_nextHandler hn)).1
  rw [pulseTotal, pulseCount, hovf, if_pos rfl] at hlt ⊢
  have hhigh : s.pcHigh ≠ 0xFF := by
    intro h
    rw [h, show (0xFF : Byte).toNat = 255 from rfl] at hlt
    omega
  have hsucc : (s.pcHigh + 1).toNat = s.pcHigh.toNat + 1 := toNat_add_one _ (by omega)
  refine ⟨_, exec_isrOvf hn hhigh, ?_⟩
  rw [hsucc]
  omega

/-- The state with a wraparound handled: another high byte, OVF acknowledged. -/
def overflowServed (high : Byte) (r : Option Response) (s : State) : State :=
  { s with pcHigh := high, ovfPending := false, resp := r }

/-- In prompt mode with OVF not deferred, a wraparound, if there is one, is handled before anything else happens. -/
theorem serves_open_overflow {s : State} (hm : s.mode = .prompt) (hopen : s.irqMask.getLsbD 0 = false)
    (hlt : pulseTotal s < 2 ^ 24) :
    ∃ k high r, runSteps k s = .next (overflowServed high r s) ∧
      pulseCount (overflowServed high r s) = pulseTotal s := by
  cases hovf : s.ovfPending with
  | false =>
    have hself : overflowServed s.pcHigh s.resp s = s := by rw [overflowServed, ← hovf]
    refine ⟨0, s.pcHigh, s.resp, by rw [hself, runSteps_zero], ?_⟩
    rw [hself, pulseTotal_of_noOverflow hovf]
  | true =>
    have hn : nextHandler s = some .ovf := by rw [nextHandler_eq, enabled_ovf_of_open hopen, if_pos hovf]
    obtain ⟨high, hexec, hcount⟩ := isrOvf_pulseCount hn hlt
    exact ⟨1, high, none, runSteps_succ 0 ((step_handler hm hn).trans hexec), hcount⟩

/-! ### Counting while no boundary is handled -/

/-- No boundary is handled during the next `n` clock events: the window counter is stopped, BND is deferred, or the window
has more than `n` events to go. -/
def NoBoundaryWithin (n : Nat) (s : State) : Prop :=
  s.wcRun = true → s.irqMask.getLsbD 1 = true ∨ WindowInv s ∧ position s + n < s.winLen.toNat

/-- The next clock event completes the window only if BND is deferred. -/
theorem NoBoundaryWithin.deferred_of_atLastEvent {n : Nat} {s : State} (h : NoBoundaryWithin (n + 1) s)
    (hrun : s.wcRun = true) (hlast : atLastEvent s) : s.irqMask.getLsbD 1 = true := by
  obtain hdefer | ⟨hw, hlt⟩ := h hrun
  · exact hdefer
  · have hfull := (hw.atLastEvent_iff hrun).mp hlast
    omega

/-- A clock event brings the boundary one event nearer. -/
theorem NoBoundaryWithin.afterTick {n : Nat} {s : State} (h : NoBoundaryWithin (n + 1) s) (c : Bool) :
    NoBoundaryWithin n (afterTick c s) := by
  intro hrun
  rw [afterTick_wcRun] at hrun
  rw [afterTick_irqMask, afterTick_winLen]
  obtain hdefer | ⟨hw, hlt⟩ := h hrun
  · exact .inl hdefer
  · refine .inr ⟨afterTick_windowInv c hw, ?_⟩
    rw [position_afterTick c hw hrun, Nat.mod_eq_of_lt (by omega)]
    omega

theorem NoBoundaryWithin.withTrace {n : Nat} {s : State} (h : NoBoundaryWithin n s) (bs : List Byte) :
    NoBoundaryWithin n (s.withTrace bs) := fun hrun =>
  (h hrun).imp_right fun ⟨hw, hlt⟩ => ⟨⟨hw.config, hw.configured, hw.stages⟩, hlt⟩

theorem NoBoundaryWithin.overflowServed {n : Nat} {s : State} (h : NoBoundaryWithin n s) (high : Byte)
    (r : Option Response) : NoBoundaryWithin n (overflowServed high r s) := fun hrun =>
  (h hrun).imp_right fun ⟨hw, hlt⟩ => ⟨⟨hw.config, hw.configured, hw.stages⟩, hlt⟩

/-- In prompt mode the main loop may act, `pulses` pulses are counted, none of them still in a pending wraparound, and the
next `n` clock events are counted with no handler in between but that of OVF. -/
structure Counting (n pulses : Nat) (s : State) : Prop where
  mode : s.mode = .prompt
  mayAct : hostMayAct s
  ovfOpen : s.irqMask.getLsbD 0 = false
  pcRun : s.pcRun = true
  noBoundary : NoBoundaryWithin n s
  counted : pulseCount s = pulses

theorem Counting.withTrace {n pulses : Nat} {s : State} (h : Counting n pulses s) (bs : List Byte) :
    Counting n pulses (s.withTrace bs) :=
  ⟨h.mode, h.mayAct, h.ovfOpen, h.pcRun, h.noBoundary.withTrace bs, h.counted⟩

theorem Counting.ovfPending {n pulses : Nat} {s : State} (h : Counting n pulses s) : s.ovfPending = false :=
  (enabled_ovf_of_open h.ovfOpen).symm.trans (nextHandler_eq_none.mp h.mayAct .ovf)

theorem Counting.pulseTotal_afterTick {n pulses : Nat} {s : State} (h : Counting n pulses s) (c : Bool) :
    pulseTotal (afterTick c s) = pulses + activeTicks [c] := by
  rw [Machine.pulseTotal_afterTick c h.pcRun h.ovfPending, pulseTotal_of_noOverflow h.ovfPending, h.counted]

/-- A clock event that completes no window, or finds BND deferred, can raise no source but OVF, so that with its wraparound
handled the main loop may act again and the event's pulse is counted. -/
theorem Counting.overflowServed {n pulses : Nat} {s : State} {c : Bool} {high : Byte} {r : Option Response}
    (h : Counting (n + 1) pulses s)
    (hcount : pulseCount (overflowServed high r (afterTick c s)) = pulseTotal (afterTick c s)) :
    Counting n (pulses + activeTicks [c]) (overflowServed high r (afterTick c s)) where
  mode := (afterTick_mode c s).trans h.mode
  mayAct := nextHandler_eq_none.mpr fun
    | .ovf => rfl
    | .bnd => (clockEvent_enabled_bnd _ c h.noBoundary.deferred_of_atLastEvent).trans (nextHandler_eq_none.mp h.mayAct .bnd)
    | .smp => (clockEvent_enabled_smp _ c s).trans (nextHandler_eq_none.mp h.mayAct .smp)
  ovfOpen := (congrArg (BitVec.getLsbD · 0) (afterTick_irqMask c s)).trans h.ovfOpen
  pcRun := (afterTick_pcRun c s).trans h.pcRun
  noBoundary := (h.noBoundary.afterTick c).overflowServed high r
  counted := hcount.trans (h.pulseTotal_afterTick c)

/-- One listed clock event, and the handler of its wraparound where there is one, count the event's pulse
(42_pulse_counter.md R108). -/
theorem Counting.tick {n pulses : Nat} {s : State} {c : Bool} {rest : List Byte} (h : Counting (n + 1) pulses s)
    (hlt : pulses + activeTicks [c] < 2 ^ 24) (ht : s.trace = encode (.evTick c) ++ rest) :
    ∃ k t, runSteps k s = .next t ∧ t.trace = rest ∧ Counting n (pulses + activeTicks [c]) t := by
  have hstep := step_evTick h.mode h.mayAct ht
  have hu := h.withTrace rest
  obtain ⟨k, high, r, hrun, hcount⟩ := serves_open_overflow (s := afterTick c (s.withTrace rest))
    ((afterTick_mode c _).trans hu.mode) (by rw [afterTick_irqMask]; exact hu.ovfOpen) (by rwa [hu.pulseTotal_afterTick c])
  exact ⟨k + 1, _, (runSteps_succ k hstep).trans hrun, afterTick_trace c _, hu.overflowServed hcount⟩

/-- Any listed clock events count their pulses, over any number of wraparounds. -/
theorem Counting.ticks {pulses : Nat} {s : State} {cs : List Bool} {rest : List Byte} (h : Counting cs.length pulses s)
    (hlt : pulses + activeTicks cs < 2 ^ 24) (ht : s.trace = encodeTrace (ticks cs) ++ rest) :
    ∃ k t, runSteps k s = .next t ∧ t.trace = rest ∧ Counting 0 (pulses + activeTicks cs) t := by
  induction cs generalizing pulses s with
  | nil => exact ⟨0, s, rfl, ht, h⟩
  | cons c cs ih =>
    rw [activeTicks_cons, ← Nat.add_assoc] at hlt ⊢
    obtain ⟨k, t, hrun, htrace, hcounting⟩ := h.tick (rest := encodeTrace (Machine.ticks cs) ++ rest) (by omega)
      (ht.trans (List.append_assoc _ _ _))
    obtain ⟨j, u, hrun', htrace', hcounting'⟩ := ih hcounting hlt htrace
    exact ⟨k + j, u, (runSteps_add j hrun).trans hrun', htrace', hcounting'⟩

/-! ### Reading the count -/

theorem exec_npcRead {s : State} (h : hostMayAct s) :
    exec .npcRead s = .next (s.ret (.u32 (combine s.pcLow s.pcHigh))) := by
  simp only [exec, execNpcRead]
  exact hostOperation_of_mayAct _ h

/-- A listed `NPC.READ` returns the count (42_pulse_counter.md R105). -/
theorem Counting.read {n pulses : Nat} {s : State} {rest : List Byte} (h : Counting n pulses s)
    (ht : s.trace = encode .npcRead ++ rest) :
    ∃ t v, step s = .next t ∧ t.trace = rest ∧ t.resp = some (.u32 v) ∧ v.toNat = pulses :=
  ⟨_, _, (step_host h.mode h.mayAct rfl ht).trans (exec_npcRead (h.withTrace rest).mayAct), rfl, rfl,
   (combine_toNat _ _).trans h.counted⟩

/-- Settles O35: the events count their pulses one by one, each wraparound handled before the next event, and the read
returns the count. -/
theorem promptReadCountsEveryActiveTick : Obligations.PromptReadCountsEveryActiveTick := by
  intro cs s hm hact hopen hrun hwindow hlt ht
  have hnone : NoBoundaryWithin cs.length s := fun hw =>
    (hwindow hw).imp_right fun ⟨hinv, hshort⟩ => ⟨((inv_iff s).mp hinv).1, hshort⟩
  have hstart : Counting cs.length (pulseCount s) s := ⟨hm, hact, hopen, hrun, hnone, rfl⟩
  obtain ⟨k, t, hticks, htrace, hcounting⟩ := hstart.ticks (rest := encode .npcRead) hlt
    (ht.trans (List.flatMap_append ..))
  obtain ⟨u, v, hstep, htrace', hresp, hvalue⟩ := hcounting.read (rest := []) htrace
  exact ⟨k + 1, u, v, (runSteps_add 1 hticks).trans (runSteps_succ 0 hstep), htrace', hresp, hvalue⟩

end Sys2Proof.Machine
end

section
/-! PROOFS. The negative-pulse counter (42_pulse_counter.md R100 to R108): the gated pulse of a clock event, the handler of its
wraparound, the host operations, and which operations change `pc_high`. -/

namespace Sys2Proof.Machine

/-! ### Who changes the high byte -/

/-- Settles O25: of the operations, only those that may write `pc_high` can change it, and each of the four says what it
writes there. -/
theorem highByteIsOnlyIncrementedOrZeroed : Obligations.HighByteIsOnlyIncrementedOrZeroed := by
  intro i s t h hne
  have hwrites : Element.pcHigh.mayWrite i ≠ false := fun hw =>
    hne (onlyListedOperationsWriteAnElement .pcHigh i s t h hw)
  have ht := effect_of_exec h
  cases i with
  | isrOvf =>
    obtain ⟨-, hhigh, rfl⟩ := ht
    exact .inl ⟨rfl, by bv_omega⟩
  | npcReset =>
    obtain ⟨-, -, rfl⟩ := ht
    exact .inr ⟨.inl rfl, rfl⟩
  | isrBnd =>
    obtain ⟨-, rfl⟩ := ht
    exact .inr ⟨.inr (.inl rfl), rfl⟩
  | sysReset =>
    subst ht
    exact .inr ⟨.inr (.inr rfl), rfl⟩
  | _ => exact absurd rfl hwrites

/-! ### The gated pulse of a clock event -/

theorem npcCount_of_stopped {s : State} (hrun : s.pcRun = false) : npcCount s = s := by
  rw [npcCount, if_neg (by simp [hrun])]

theorem npcCount_of_room {s : State} (hrun : s.pcRun = true) (hlow : s.pcLow ≠ 0xFFFF) :
    npcCount s = { s with pcLow := s.pcLow + 1 } := by
  rw [npcCount, if_pos hrun, if_neg hlow]

/-- At `ACTIVE_LEVEL` the pulse counter's part of a clock event is `NPC.COUNT` (41_polarity_synchronizer.md R90). -/
theorem afterTick_active (s : State) :
    (afterTick Config.activeLevel s).pcLow = (npcCount s).pcLow ∧
    (afterTick Config.activeLevel s).ovfPending = (npcCount s).ovfPending :=
  clockEvent_active Config.blankLen s

/-- Away from `ACTIVE_LEVEL` there is no pulse to count (41_polarity_synchronizer.md R90). -/
theorem afterTick_inactive {c : Bool} (hc : c ≠ Config.activeLevel) (s : State) :
    (afterTick c s).pcLow = s.pcLow ∧ (afterTick c s).ovfPending = s.ovfPending := by
  rw [afterTick_eq, wecAdvance_frame]
  simp [beforeWindow, hc]

/-- Settles O28: a pulse is counted by `NPC.COUNT`, below `0xFFFF` by one up and at `0xFFFF` by the wraparound; `pc_high` is in
no part of a clock event. -/
theorem evTickCountsAGatedPulse : Obligations.EvTickCountsAGatedPulse := by
  intro c s
  refine ⟨_, exec_evTick c s, clockEvent_pcHigh _ c s, ?counted, ?unchanged⟩
  case counted =>
    rintro hrun rfl
    refine ⟨fun hroom => ?_, clockEvent_wraps _ hrun⟩
    obtain ⟨hlow, hovf⟩ := afterTick_active s
    rw [hlow, hovf, npcCount_of_room hrun hroom]
    exact ⟨by bv_omega, rfl⟩
  case unchanged =>
    intro hnone
    by_cases hc : c = Config.activeLevel
    · have hstopped : s.pcRun = false := hnone.resolve_right (not_not_intro hc)
      have hpulse := afterTick_active s
      rwa [npcCount_of_stopped hstopped, ← hc] at hpulse
    · exact afterTick_inactive hc s

/-! ### The handler of the wraparound -/

/-- A handler step whose source is not enabled is refused (60_exceptions.md R182). -/
theorem takeInterrupt_notEnabled {x : Source} {s : State} (body : State → Host.Outcome State Fault Refusal)
    (h : enabled x s = false) : takeInterrupt x body s = .refused .handlerNotEnabled := by
  simp [takeInterrupt, h]

/-- OVF, with the highest priority, is next wherever it is pending and not deferred (60_exceptions.md R178). -/
theorem nextHandler_ovf_of_open {s : State} (hovf : s.ovfPending = true) (hopen : s.irqMask.getLsbD 0 = false) :
    nextHandler s = some .ovf := by
  rw [nextHandler_eq, enabled_ovf_of_open hopen, if_pos hovf]

theorem enabled_ovf_eq_false {s : State} (h : s.ovfPending = false ∨ s.irqMask.getLsbD 0 = true) :
    enabled .ovf s = false := by
  rw [enabled, deferred, sourceNumber, pending]
  obtain hovf | hdeferred := h
  · rw [hovf, Bool.false_and]
  · rw [hdeferred, Bool.not_true, Bool.and_false]

theorem exec_isrOvf_notEnabled {s : State} (h : enabled .ovf s = false) :
    exec .isrOvf s = .refused .handlerNotEnabled := by
  simp only [exec, execIsrOvf]
  exact takeInterrupt_notEnabled _ h

/-- The high byte has no room for a wraparound at `0xFF` (42_pulse_counter.md R103). -/
theorem exec_isrOvf_full {s : State} (h : nextHandler s = some .ovf) (hhigh : s.pcHigh = 0xFF) :
    exec .isrOvf s = .refused .highByteOverflow := by
  simp only [exec, execIsrOvf]
  rw [takeInterrupt_of_turn _ h, if_pos hhigh]

theorem pulseTotal_of_overflow {s : State} (h : s.ovfPending = true) : pulseTotal s = pulseCount s + 65536 := by
  rw [pulseTotal, if_pos h]

/-- With its wraparound handled the count is the total (42_pulse_counter.md R105). -/
theorem pulseTotal_overflowServed (high : Byte) (r : Option Response) (s : State) :
    pulseTotal (overflowServed high r s) = high.toNat * 65536 + s.pcLow.toNat :=
  pulseTotal_of_noOverflow (s := overflowServed high r s) rfl

/-- Settles O34: the increment is worth the 65536 pulses that the acknowledged overflow stood for, so the total stays. -/
theorem isrOvfIncrementsTheHighByte : Obligations.IsrOvfIncrementsTheHighByte := by
  refine ⟨rfl, rfl, fun s => ⟨fun h => exec_isrOvf_notEnabled (enabled_ovf_eq_false h), fun hovf hopen => ?_⟩⟩
  have hturn := nextHandler_ovf_of_open hovf hopen
  refine ⟨fun hhigh => ?_, exec_isrOvf_full hturn⟩
  have hsucc : (s.pcHigh + 1).toNat = s.pcHigh.toNat + 1 := by bv_omega
  refine ⟨_, exec_isrOvf hturn hhigh, rfl, hsucc, ?_⟩
  calc pulseTotal (overflowServed (s.pcHigh + 1) none s)
    _ = (s.pcHigh + 1).toNat * 65536 + s.pcLow.toNat := pulseTotal_overflowServed _ _ s
    _ = pulseTotal s := by
      rw [hsucc, pulseTotal_of_overflow hovf, pulseCount]
      omega

/-! ### The host operations -/

/-- Settles O47: `combine` is exact, and a pending overflow, which the main loop meets only while OVF is deferred, stands for
65536 pulses that the read leaves out. -/
theorem pulseReadsReturnTheirParts : Obligations.PulseReadsReturnTheirParts := by
  refine ⟨rfl, rfl, rfl, rfl, rfl, rfl, fun s hact => ⟨?_, exec_npcRdlo hact, exec_npcRdhi hact⟩⟩
  have hvalue : (combine s.pcLow s.pcHigh).toNat = pulseCount s := combine_toNat _ _
  refine ⟨_, hvalue, combine_lt _ _, fun hopen => ?served, fun hnone => ?whole, fun hovf => ?below, exec_npcRead hact⟩
  case served => rw [← enabled_ovf_of_open hopen, nextHandler_eq_none.mp hact .ovf]
  case whole => rw [hvalue, pulseTotal_of_noOverflow hnone]
  case below => rw [hvalue, pulseTotal_of_overflow hovf]

/-- Settles O45: where the main loop may act, both complete. -/
theorem npcStartAndStopSwitchCounting : Obligations.NpcStartAndStopSwitchCounting :=
  ⟨rfl, rfl, rfl, rfl, fun _ hact => ⟨exec_npcStart hact, exec_npcStop hact⟩⟩

theorem exec_npcReset_counting {s : State} (h : hostMayAct s) (hrun : s.pcRun = true) :
    exec .npcReset s = .refused .pulseResetWhileCounting := by
  simp only [exec, execNpcReset]
  rw [hostOperation_of_mayAct _ h, if_pos hrun]

/-- Settles O46: stopped, the reset writes the two parts of the count alone; counting, it is refused. -/
theorem npcResetClearsBothParts : Obligations.NpcResetClearsBothParts :=
  ⟨rfl, rfl, fun _ hact => ⟨exec_npcReset hact, exec_npcReset_counting hact⟩⟩

end Sys2Proof.Machine
end

section
/-! PROOFS. The window controller's host operations (43_window_controller.md R120 to R123): where each completes, where it is
refused, and that a completed one writes nothing beyond its own elements. -/

namespace Sys2Proof.Machine

/-! ### `WC.CONFIGURE` -/

theorem exec_wcConfigure_running {s : State} (len : Word) (div : Half) (h : hostMayAct s) (hrun : s.wcRun = true) :
    exec (.wcConfigure len div) s = .refused .configureWhileRunning := by
  simp only [exec, execWcConfigure]
  rw [hostOperation_of_mayAct _ h, if_pos hrun]

/-- A window that divides, yet is empty or has more sub-cycles than the high stage counts, is refused
(43_window_controller.md R120). -/
theorem exec_wcConfigure_outOfRange {s : State} {len : Word} {div : Half} (h : hostMayAct s) (hrun : s.wcRun = false)
    (hd : notDivisible len div = false) (hl : windowTooShortOrLong len div = true) :
    exec (.wcConfigure len div) s = .refused .windowOutOfRange := by
  simp only [exec, execWcConfigure]
  rw [hostOperation_of_mayAct _ h, if_neg (by simp [hrun]), if_neg (by simp [hd]), if_pos hl]

/-- Settles O41: divisibility is tested first, so the range is asked only of a window that divides. -/
theorem wcConfigureValidatesThenStores : Obligations.WcConfigureValidatesThenStores := by
  refine fun len div => ⟨rfl, rfl, fun s hact => ⟨exec_wcConfigure_running len div hact, ?notDivides, ?divides⟩⟩
  case notDivides =>
    exact fun hrun hnot => exec_wcConfigure_notDivisible hact hrun ((notDivisible_iff len div).mpr hnot)
  case divides =>
    intro hrun hdiv hmod
    have hd : notDivisible len div = false := (notDivisible_eq_false len div).mpr ⟨hdiv, hmod⟩
    refine ⟨fun hout => ?refused, fun hlen hmax => ?stored⟩
    case refused => exact exec_wcConfigure_outOfRange hact hrun hd ((windowTooShortOrLong_iff len div).mpr hout)
    case stored =>
      exact exec_wcConfigure_accepted hact hrun hd ((windowTooShortOrLong_eq_false len div).mpr ⟨hlen, hmax⟩)

/-! ### `WC.START` -/

theorem exec_wcStart_running {s : State} (h : hostMayAct s) (hrun : s.wcRun = true) :
    exec .wcStart s = .next (s.ret .ok) := by
  simp only [exec, execWcStart]
  rw [hostOperation_of_mayAct _ h, if_pos hrun]
  rfl

theorem exec_wcStart_notFresh {s : State} (h : hostMayAct s) (hrun : s.wcRun = false) (hf : ¬ freshlyReset s = true) :
    exec .wcStart s = .refused .startNotFreshlyReset := by
  simp only [exec, execWcStart]
  rw [hostOperation_of_mayAct _ h, if_neg (by simp [hrun]), if_neg hf]

/-- Settles O42: of the stopped states it starts exactly the freshly reset ones. -/
theorem wcStartNeedsAFreshReset : Obligations.WcStartNeedsAFreshReset := by
  refine ⟨rfl, rfl, fun s hact => ⟨exec_wcStart_running hact, fun hrun hfresh => ?fresh, fun hrun hstale => ?stale⟩⟩
  case fresh => exact exec_wcStart_fresh hact hrun ((freshlyReset_iff s).mpr hfresh)
  case stale => exact exec_wcStart_notFresh hact hrun (mt (freshlyReset_iff s).mp hstale)

/-! ### `WC.STOP` -/

/-- Settles O43: where the main loop may act, it completes, running or not. -/
theorem wcStopKeepsTheResidue : Obligations.WcStopKeepsTheResidue :=
  ⟨rfl, rfl, fun _ => exec_wcStop⟩

/-! ### `WC.RESET` -/

/-- The initial offsets of the stages are zero. -/
theorem clearWindow_eq (s : State) : clearWindow s = { s with wcLow := 0, wcHigh := 0, bndPending := false } := rfl

theorem exec_wcReset_stopped {s : State} (h : hostMayAct s) (hrun : s.wcRun = false) :
    exec .wcReset s = .next { s with wcLow := 0, wcHigh := 0, bndPending := false, resp := some .ok } := by
  simp only [exec, execWcReset]
  rw [hostOperation_of_mayAct _ h, if_neg (by simp [hrun]), completes, clearWindow_eq]
  rfl

theorem exec_wcReset_running {s : State} (h : hostMayAct s) (hrun : s.wcRun = true) :
    exec .wcReset s = .refused .windowResetWhileRunning := by
  simp only [exec, execWcReset]
  rw [hostOperation_of_mayAct _ h, if_pos hrun]

/-- Settles O44: stopped, the reset writes the stages and the pending boundary alone; running, it is refused. -/
theorem wcResetClearsStagesAndBoundary : Obligations.WcResetClearsStagesAndBoundary :=
  ⟨rfl, rfl, fun _ hact => ⟨exec_wcReset_stopped hact, exec_wcReset_running hact⟩⟩

end Sys2Proof.Machine
end

section
/-! PROOFS. The measurement state machine (44_measurement_sm.md R130 to R140): its two handler steps row by row, the order in
which handlers pending together are served (60_exceptions.md R183), one whole measurement, and its host operations. -/

namespace Sys2Proof.Machine

/-! ### Which handler comes next, by what is enabled -/

/-- `enabled(X)` (00_scope.md R6). -/
theorem enabled_iff {x : Source} {s : State} : enabled x s = true ↔ pending x s = true ∧ deferred x s = false := by
  simp [enabled]

theorem nextHandler_bnd_iff {s : State} :
    nextHandler s = some .bnd ↔ enabled .bnd s = true ∧ ¬ enabled .ovf s = true := by
  rw [nextHandler_eq]
  cases enabled .ovf s <;> cases enabled .bnd s <;> simp

theorem nextHandler_smp_iff {s : State} :
    nextHandler s = some .smp ↔ enabled .smp s = true ∧ ¬ enabled .ovf s = true ∧ ¬ enabled .bnd s = true := by
  rw [nextHandler_eq]
  cases enabled .ovf s <;> cases enabled .bnd s <;> cases enabled .smp s <;> simp

/-- A handler step whose source is not pending or is deferred is refused (60_exceptions.md R182). -/
theorem exec_handler_refused {x : Source} {s : State} (h : pending x s = false ∨ deferred x s = true) :
    exec x.handler s = .refused .handlerNotEnabled := by
  have hoff : enabled x s = false := by
    rw [← Bool.not_eq_true, enabled_iff]
    obtain hp | hd := h
    · simp [hp]
    · simp [hd]
  obtain ⟨body, hbody⟩ := exec_handler x
  rw [hbody, takeInterrupt_notEnabled body hoff]

/-! ### `ISR.SMP` (44_measurement_sm.md R131) -/

theorem exec_isrSmp_next {s : State} (h : nextHandler s = some .smp) :
    exec .isrSmp s = .next { sampleTransition s with smpPending := false, resp := none } := by
  rw [exec_isrSmp h, sampleTransition_ack]
  rfl

theorem sampleTransition_of_clean {s : State} (h : s.status = .clean) :
    sampleTransition s = { s with baseline := s.smpData, status := .prevCharge } := by
  rw [sampleTransition, h]

theorem sampleTransition_of_prevCharge {s : State} (h : s.status = .prevCharge) :
    sampleTransition s = seqError .dupSample s := by
  rw [sampleTransition, h]

theorem sampleTransition_of_negativeCounts {s : State} (h : s.status = .negativeCounts) :
    sampleTransition s =
      { s with value := sampleDifference s.smpData s.baseline, baseline := s.smpData, status := .resultAvail } := by
  rw [sampleTransition, h]

theorem sampleTransition_of_resultAvail {s : State} (h : s.status = .resultAvail) :
    sampleTransition s = seqError .overrun s := by
  rw [sampleTransition, h]

/-- In CLEAN a sample becomes the baseline. -/
theorem exec_isrSmp_clean {s : State} (hn : nextHandler s = some .smp) (h : s.status = .clean) :
    exec .isrSmp s =
      .next { s with smpPending := false, baseline := s.smpData, status := .prevCharge, resp := none } := by
  rw [exec_isrSmp_next hn, sampleTransition_of_clean h]

/-- In NEGATIVE_COUNTS a sample closes the measurement. -/
theorem exec_isrSmp_negativeCounts {s : State} (hn : nextHandler s = some .smp) (h : s.status = .negativeCounts) :
    exec .isrSmp s =
      .next { s with smpPending := false, value := sampleDifference s.smpData s.baseline, baseline := s.smpData,
                     status := .resultAvail, resp := none } := by
  rw [exec_isrSmp_next hn, sampleTransition_of_negativeCounts h]

/-- A sample out of sequence is acknowledged and counted, and changes nothing else (44_measurement_sm.md R134). -/
theorem exec_isrSmp_error {s : State} {k : SequencingError} (hn : nextHandler s = some .smp)
    (h : sampleTransition s = seqError k s) :
    ∃ t, exec .isrSmp s = .next t ∧
      t = { s with smpPending := false, errCount := t.errCount, errFlags := s.errFlags ||| errorFlag k, resp := none } ∧
      t.errCount.toNat = min (s.errCount.toNat + 1) 0xFFFFFFFF := by
  refine ⟨_, exec_isrSmp_next hn, ?_⟩
  rw [h]
  exact ⟨rfl, saturatingSucc_toNat s.errCount⟩

/-- Settles O36, row by row of the table. -/
theorem isrSmpFollowsTheTable : Obligations.IsrSmpFollowsTheTable := by
  refine ⟨rfl, rfl, fun s => ⟨exec_handler_refused (x := .smp), ?turn, exec_isrSmp_clean, ?prevCharge, ?negativeCounts,
    ?resultAvail⟩⟩
  case turn =>
    rw [nextHandler_smp_iff, enabled_iff, enabled_iff, enabled_iff, and_assoc]
    exact Iff.rfl
  case prevCharge => exact fun hn h => exec_isrSmp_error hn (sampleTransition_of_prevCharge h)
  case negativeCounts => exact fun hn h => ⟨_, sampleDifference_toInt _ _, exec_isrSmp_negativeCounts hn h⟩
  case resultAvail => exact fun hn h => exec_isrSmp_error hn (sampleTransition_of_resultAvail h)

/-! ### `ISR.BND` (44_measurement_sm.md R132) -/

/-- The state with both counters zeroed and the boundary acknowledged (44_measurement_sm.md R132, steps 3 and 4). -/
def rearmed (s : State) : State :=
  { s with pcLow := 0, pcHigh := 0, wcLow := 0, wcHigh := 0, bndPending := false, resp := none }

/-- The run bits go down and up again within the step, so it leaves them as they were. -/
theorem exec_isrBnd_next {s : State} (h : nextHandler s = some .bnd) :
    exec .isrBnd s = .next (rearmed (boundaryTransition s)) := by
  rw [exec_isrBnd h, windowRearm_boundary, boundaryTransition_frame]
  rfl

theorem boundaryTransition_of_clean {s : State} (h : s.status = .clean) : boundaryTransition s = s := by
  rw [boundaryTransition, h]

theorem boundaryTransition_of_prevCharge {s : State} (h : s.status = .prevCharge) :
    boundaryTransition s = { s with negCounts := combine s.pcLow s.pcHigh, status := .negativeCounts } := by
  rw [boundaryTransition, h]

theorem boundaryTransition_of_negativeCounts {s : State} (h : s.status = .negativeCounts) :
    boundaryTransition s = seqError .dupBoundary s := by
  rw [boundaryTransition, h]

theorem boundaryTransition_of_resultAvail {s : State} (h : s.status = .resultAvail) :
    boundaryTransition s = seqError .overrun s := by
  rw [boundaryTransition, h]

/-- Settles O37: the transition by the rows of the table, the rest by the rearm, which writes no element of the state
machine. -/
theorem isrBndFollowsTheTable : Obligations.IsrBndFollowsTheTable := by
  refine ⟨rfl, rfl, fun _ => exec_handler_refused (x := .bnd), fun s => ?turn, fun s hn =>
    ⟨_, exec_isrBnd_next hn, congrArg rearmed (boundaryTransition_frame s), fun h => ?clean, fun h => ?prevCharge,
      fun h => ?negativeCounts, fun h => ?resultAvail⟩⟩
  case turn =>
    rw [nextHandler_bnd_iff, enabled_iff, enabled_iff, and_assoc]
    exact Iff.rfl
  case clean =>
    rw [boundaryTransition_of_clean h]
    exact ⟨h, rfl, rfl, rfl⟩
  case prevCharge =>
    rw [boundaryTransition_of_prevCharge h]
    exact ⟨rfl, combine_toNat _ _, rfl, rfl⟩
  case negativeCounts =>
    rw [boundaryTransition_of_negativeCounts h]
    exact ⟨h, rfl, saturatingSucc_toNat _, rfl⟩
  case resultAvail =>
    rw [boundaryTransition_of_resultAvail h]
    exact ⟨h, rfl, saturatingSucc_toNat _, rfl⟩

/-! ### Handlers pending together (60_exceptions.md R183) -/

/-- In prompt mode an enabled overflow is served first. -/
theorem step_overflow {s : State} (hm : s.mode = .prompt) (hovf : enabled .ovf s = true) (hhigh : s.pcHigh ≠ 0xFF) :
    step s = .next (overflowServed (s.pcHigh + 1) none s) := by
  have hn : nextHandler s = some .ovf := by rw [nextHandler_eq, if_pos hovf]
  exact (step_handler hm hn).trans (exec_isrOvf hn hhigh)

/-- The overflow served is the wraparound counted (42_pulse_counter.md R103). -/
theorem pulseCount_overflowServed {s : State} (r : Option Response) (hhigh : s.pcHigh ≠ 0xFF) :
    pulseCount (overflowServed (s.pcHigh + 1) r s) = pulseCount s + 65536 := by
  have hsucc : (s.pcHigh + 1).toNat = s.pcHigh.toNat + 1 := by bv_omega
  simp only [pulseCount, overflowServed, hsucc]
  omega

/-- With the overflow served, a boundary enabled with it comes next. -/
theorem nextHandler_overflowServed {s : State} (high : Byte) (r : Option Response) (hbnd : enabled .bnd s = true) :
    nextHandler (overflowServed high r s) = some .bnd :=
  nextHandler_bnd_iff.mpr ⟨hbnd, Bool.false_ne_true⟩

/-- The state with a boundary served in PREV_CHARGE: the count captured, and both counters zeroed. -/
def captured (s : State) : State :=
  rearmed { s with negCounts := combine s.pcLow s.pcHigh, status := .negativeCounts }

/-- In prompt mode a boundary whose turn it is in PREV_CHARGE captures the count (44_measurement_sm.md R132). -/
theorem step_boundary {s : State} (hm : s.mode = .prompt) (hn : nextHandler s = some .bnd) (h : s.status = .prevCharge) :
    step s = .next (captured s) := by
  rw [step_handler hm hn, Source.handler, exec_isrBnd_next hn, boundaryTransition_of_prevCharge h, captured]

theorem captured_negCounts (s : State) : (captured s).negCounts.toNat = pulseCount s := combine_toNat _ _

/-- With no overflow left behind, the next window opens with no pulse counted. -/
theorem pulseTotal_captured {s : State} (h : s.ovfPending = false) : pulseTotal (captured s) = 0 := by
  rw [pulseTotal_of_noOverflow (s := captured s) h]
  simp [pulseCount, captured, rearmed]

/-- Settles O38: the overflow's step puts the wraparound into the count that the boundary's step then captures. -/
theorem overflowIsServedBeforeTheBoundary : Obligations.OverflowIsServedBeforeTheBoundary := by
  refine fun s hm hovf hbnd hstatus => ⟨fun hhigh => ?served, fun hhigh => ?refused⟩
  case served =>
    have hfirst := step_overflow hm hovf hhigh
    have hsecond : step (overflowServed (s.pcHigh + 1) none s) = .next (captured (overflowServed (s.pcHigh + 1) none s)) :=
      step_boundary hm (nextHandler_overflowServed _ _ hbnd) hstatus
    refine ⟨_, (runSteps_succ 1 hfirst).trans (runSteps_succ 0 hsecond), rfl, ?_, pulseTotal_captured rfl⟩
    rw [captured_negCounts, pulseCount_overflowServed _ hhigh]
  case refused =>
    have hn : nextHandler s = some .ovf := by rw [nextHandler_eq, if_pos hovf]
    exact (step_handler hm hn).trans (exec_isrOvf_full hn hhigh)

/-- A boundary whose turn it is in PREV_CHARGE and a sample enabled with it give the result: the captured count and the
difference. -/
theorem boundary_then_sample {s : State} (hm : s.mode = .prompt) (hn : nextHandler s = some .bnd)
    (hsmp : enabled .smp s = true) (h : s.status = .prevCharge) :
    ∃ t, runSteps 2 s = .next t ∧ t.status = .resultAvail ∧ t.errCount = s.errCount ∧ t.errFlags = s.errFlags ∧
      t.negCounts.toNat = pulseCount s ∧ t.value.toInt = s.smpData.toInt - s.baseline.toInt := by
  obtain ⟨-, hovf⟩ := nextHandler_bnd_iff.mp hn
  have hturn : nextHandler (captured s) = some .smp := nextHandler_smp_iff.mpr ⟨hsmp, hovf, Bool.false_ne_true⟩
  have hclose := (step_handler (s := captured s) hm hturn).trans (exec_isrSmp_negativeCounts hturn rfl)
  exact ⟨_, (runSteps_succ 1 (step_boundary hm hn h)).trans (runSteps_succ 0 hclose), rfl, rfl, rfl,
    captured_negCounts s, sampleDifference_toInt _ _⟩

/-- Settles O39: an overflow, if one is enabled, goes first and leaves the other two as they were, with its wraparound in
the count. -/
theorem boundaryIsServedBeforeTheSample : Obligations.BoundaryIsServedBeforeTheSample := by
  intro s hm hbnd hsmp hstatus hhigh
  by_cases hovf : enabled .ovf s = true
  · rw [if_pos hovf, if_pos hovf, runSteps_succ 2 (step_overflow hm hovf (hhigh hovf)),
      ← pulseCount_overflowServed none (hhigh hovf)]
    exact boundary_then_sample (s := overflowServed (s.pcHigh + 1) none s) hm (nextHandler_overflowServed _ _ hbnd) hsmp
      hstatus
  · rw [if_neg hovf, if_neg hovf, Nat.add_zero]
    exact boundary_then_sample hm (nextHandler_bnd_iff.mpr ⟨hbnd, hovf⟩) hsmp hstatus

/-! ### The event of a sample (44_measurement_sm.md R130) -/

theorem exec_evSample (reading : Half) (s : State) :
    exec (.evSample reading) s = .next { s with smpData := reading, smpPending := true, resp := none } := rfl

/-- Settles O33: the event has one outcome, whatever the state. -/
theorem evSampleLatchesTheReading : Obligations.EvSampleLatchesTheReading :=
  fun reading => ⟨rfl, rfl, exec_evSample reading⟩

/-- The state with a reading latched and the word that brought it taken off the trace. -/
def sampled (reading : Half) (rest : List Byte) (s : State) : State :=
  { s with smpData := reading, smpPending := true, trace := rest, resp := none }

/-- In prompt mode a listed sample is the next step once no handler is enabled (60_exceptions.md R182). -/
theorem step_evSample {s : State} {reading : Half} {rest : List Byte} (hm : s.mode = .prompt) (hn : nextHandler s = none)
    (ht : s.trace = encode (.evSample reading) ++ rest) :
    step s = .next (sampled reading rest s) :=
  (step_of_decode_ok (.inr ⟨hm, hn⟩) (ht ▸ decode_encode (.evSample reading) rest) (by rw [hm]; rfl)).trans
    (exec_evSample reading _)

/-! ### One measurement: a sample, a boundary and a sample (44_measurement_sm.md R140) -/

/-- Between the events of a measurement in prompt mode: nothing pending or deferred, the state machine at `status`. -/
structure Quiet (status : MeasurementStatus) (s : State) : Prop where
  mode : s.mode = .prompt
  irqMask : s.irqMask = 0
  pending : nothingPending s
  status : s.status = status

theorem Quiet.mayAct {status : MeasurementStatus} {s : State} (h : Quiet status s) : hostMayAct s :=
  hostMayAct_of_nothingPending h.pending

/-- A sample alone is handled next. -/
theorem Quiet.nextHandler_sampled {status : MeasurementStatus} {s : State} (h : Quiet status s) (reading : Half)
    (rest : List Byte) : nextHandler (sampled reading rest s) = some .smp := by
  obtain ⟨hovf, hbnd, -⟩ := h.pending
  have henabled := enabled_of_mask_zero (s := sampled reading rest s) h.irqMask
  rw [nextHandler_smp_iff, henabled, henabled, henabled]
  exact ⟨rfl, ne_true_of_eq_false hovf, ne_true_of_eq_false hbnd⟩

/-- The state with a measurement opened by a reading: the reading is its baseline. -/
def opened (reading : Half) (rest : List Byte) (s : State) : State :=
  { s with smpData := reading, smpPending := false, baseline := reading, status := .prevCharge, trace := rest,
           resp := none }

/-- The sample that opens a measurement is handled before the next event. -/
theorem Quiet.opens {s : State} {reading : Half} {rest : List Byte} (h : Quiet .clean s)
    (ht : s.trace = encode (.evSample reading) ++ rest) :
    runSteps 2 s = .next (opened reading rest s) ∧ Quiet .prevCharge (opened reading rest s) := by
  have hn := h.nextHandler_sampled reading rest
  have hserve := (step_handler (s := sampled reading rest s) h.mode hn).trans (exec_isrSmp_clean hn h.status)
  obtain ⟨hovf, hbnd, -⟩ := h.pending
  exact ⟨(runSteps_succ 1 (step_evSample h.mode h.mayAct ht)).trans (runSteps_succ 0 hserve),
    h.mode, h.irqMask, ⟨hovf, hbnd, rfl⟩, rfl⟩

/-- The sample that closes a measurement is differenced against the baseline. -/
theorem Quiet.closes {s : State} {reading : Half} {rest : List Byte} (h : Quiet .negativeCounts s)
    (ht : s.trace = encode (.evSample reading) ++ rest) :
    runSteps 2 s = .next { s with smpData := reading, smpPending := false, value := sampleDifference reading s.baseline,
                                  baseline := reading, status := .resultAvail, trace := rest, resp := none } := by
  have hn := h.nextHandler_sampled reading rest
  have hserve := (step_handler (s := sampled reading rest s) h.mode hn).trans (exec_isrSmp_negativeCounts hn h.status)
  exact (runSteps_succ 1 (step_evSample h.mode h.mayAct ht)).trans (runSteps_succ 0 hserve)

/-- Below `0xFFFF` no pulse wraps (42_pulse_counter.md R100). -/
theorem npcCount_ovfPending_of_room {s : State} (hlow : s.pcLow ≠ 0xFFFF) : (npcCount s).ovfPending = s.ovfPending := by
  cases hrun : s.pcRun with
  | false => rw [npcCount_of_stopped hrun]
  | true => rw [npcCount_of_room hrun hlow]

theorem afterTick_ovfPending_of_room (c : Bool) {s : State} (hlow : s.pcLow ≠ 0xFFFF) :
    (afterTick c s).ovfPending = s.ovfPending := by
  by_cases hc : c = Config.activeLevel
  · rw [hc, (afterTick_active s).2, npcCount_ovfPending_of_room hlow]
  · exact (afterTick_inactive hc s).2

@[simp] theorem afterTick_baseline (c : Bool) (s : State) : (afterTick c s).baseline = s.baseline := by
  rw [afterTick_frame]
@[simp] theorem afterTick_errCount (c : Bool) (s : State) : (afterTick c s).errCount = s.errCount := by
  rw [afterTick_frame]
@[simp] theorem afterTick_errFlags (c : Bool) (s : State) : (afterTick c s).errFlags = s.errFlags := by
  rw [afterTick_frame]

/-- The clock event that completes the window, raising no overflow, has its boundary handled next, which captures a count and
keeps the baseline and the error record. -/
theorem Quiet.captures {s : State} {c : Bool} {rest : List Byte} (h : Quiet .prevCharge s) (hrun : s.wcRun = true)
    (hlast : atLastEvent s) (hlow : s.pcLow ≠ 0xFFFF) (ht : s.trace = encode (.evTick c) ++ rest) :
    ∃ t, runSteps 2 s = .next t ∧ t.trace = rest ∧ Quiet .negativeCounts t ∧ t.baseline = s.baseline ∧
      t.errCount = s.errCount ∧ t.errFlags = s.errFlags := by
  obtain ⟨hovf, -, hsmp⟩ := h.pending
  have hovf' : (afterTick c (s.withTrace rest)).ovfPending = false :=
    (afterTick_ovfPending_of_room c (s := s.withTrace rest) hlow).trans hovf
  have hbnd' : (afterTick c (s.withTrace rest)).bndPending = true :=
    (clockEvent_bndPending _ c (s.withTrace rest)).mpr (.inr ⟨hrun, hlast⟩)
  have hmode : (afterTick c (s.withTrace rest)).mode = .prompt := (afterTick_mode c _).trans h.mode
  have hmask : (afterTick c (s.withTrace rest)).irqMask = 0 := (afterTick_irqMask c _).trans h.irqMask
  have hturn : nextHandler (afterTick c (s.withTrace rest)) = some .bnd := by
    rw [nextHandler_bnd_iff, enabled_of_mask_zero hmask, enabled_of_mask_zero hmask]
    exact ⟨hbnd', ne_true_of_eq_false hovf'⟩
  have hserve := step_boundary hmode hturn ((afterTick_status c _).trans h.status)
  exact ⟨_, (runSteps_succ 1 (step_evTick h.mode h.mayAct ht)).trans (runSteps_succ 0 hserve), afterTick_trace c _,
    ⟨hmode, hmask, ⟨hovf', rfl, (afterTick_smpPending c _).trans hsmp⟩, rfl⟩,
    afterTick_baseline c _, afterTick_errCount c _, afterTick_errFlags c _⟩

/-- Settles O52: each of the three events has its handler run before the next, and none of them is out of sequence. -/
theorem sampleBoundarySampleMeasures : Obligations.SampleBoundarySampleMeasures := by
  intro a b c rest s hm hmask hp hstatus hrun hlast hlow ht
  have hquiet : Quiet .clean s := ⟨hm, hmask, hp, hstatus⟩
  obtain ⟨hrun₁, hquiet₁⟩ := hquiet.opens (rest := encodeTrace [.evTick c, .evSample b] ++ rest) ht
  obtain ⟨u, hrun₂, htrace, hquiet₂, hbaseline, hcount, hflags⟩ :=
    hquiet₁.captures (c := c) (rest := encodeTrace [.evSample b] ++ rest) hrun hlast hlow rfl
  have hrun₃ := hquiet₂.closes (reading := b) (rest := rest) htrace
  refine ⟨_, (runSteps_add 4 hrun₁).trans ((runSteps_add 2 hrun₂).trans hrun₃), rfl, rfl, ?_, hcount, hflags⟩
  rw [sampleDifference_toInt, hbaseline, opened]

/-! ### The host operations (44_measurement_sm.md R136 to R139) -/

theorem exec_msmStatus {s : State} (h : hostMayAct s) :
    exec .msmStatus s = .next (s.ret (.u8 ((statusCode s.status).setWidth 8))) :=
  hostOperation_of_mayAct _ h

theorem exec_msmErrors {s : State} (h : hostMayAct s) :
    exec .msmErrors s = .next (s.ret (.errors s.errCount (s.errFlags.setWidth 8))) :=
  hostOperation_of_mayAct _ h

/-- Settles O49: the number of each state, and the flags zero-extended. -/
theorem statusAndErrorsAreRead : Obligations.StatusAndErrorsAreRead := by
  refine ⟨rfl, rfl, rfl, rfl, fun s hact => ?_⟩
  have hread (st : MeasurementStatus) (h : s.status = st) :
      exec .msmStatus s = .next (s.ret (.u8 ((statusCode st).setWidth 8))) := h ▸ exec_msmStatus hact
  exact ⟨hread .clean, hread .prevCharge, hread .negativeCounts, hread .resultAvail, _,
    BitVec.toNat_setWidth_of_le (by decide), exec_msmErrors hact⟩

theorem exec_msmTake_available {s : State} (now : Word) (h : hostMayAct s) (hs : s.status = .resultAvail) :
    exec (.msmTake now) s =
      .next { s with status := .clean, resp := some (.measurement now s.value s.negCounts) } := by
  simp only [exec, execMsmTake]
  rw [hostOperation_of_mayAct _ h, if_pos hs]
  rfl

theorem exec_msmTake_none {s : State} (now : Word) (h : hostMayAct s) (hs : s.status ≠ .resultAvail) :
    exec (.msmTake now) s = .next (s.ret .noResult) := by
  simp only [exec, execMsmTake]
  rw [hostOperation_of_mayAct _ h, if_neg hs]
  rfl

/-- Settles O50: a result is there to take in RESULT_AVAIL alone. -/
theorem msmTakeHandsOffOnce : Obligations.MsmTakeHandsOffOnce := fun now =>
  ⟨rfl, rfl, fun _ hact => ⟨exec_msmTake_available now hact, exec_msmTake_none now hact⟩⟩

/-- Settles O51: where the main loop may act, it completes in every status. -/
theorem msmResetClearsOnlyTheStatus : Obligations.MsmResetClearsOnlyTheStatus :=
  ⟨rfl, rfl, fun _ => exec_msmReset⟩

/-! ### The arrows of the state machine (44_measurement_sm.md R133) -/

/-- Settles O23: of the operations, only those that may write `status` can move it, and each of the five moves it along an
arrow of its own or not at all. -/
theorem statusMovesOnlyAlongTheTable : Obligations.StatusMovesOnlyAlongTheTable := by
  intro i s t h hne
  have hwrites : Element.status.mayWrite i ≠ false := fun hw =>
    hne (onlyListedOperationsWriteAnElement .status i s t h hw)
  have ht := effect_of_exec h
  cases i with
  | isrSmp =>
    obtain ⟨-, rfl⟩ := ht
    obtain ⟨hs, he⟩ | ⟨-, he⟩ | ⟨hs, he⟩ | ⟨-, he⟩ := sampleTransition_cases s <;> rw [he] at hne ⊢
    · exact .inl ⟨rfl, hs, rfl⟩
    · exact absurd rfl hne
    · exact .inr (.inr (.inl ⟨rfl, hs, rfl⟩))
    · exact absurd rfl hne
  | isrBnd =>
    obtain ⟨-, rfl⟩ := ht
    obtain ⟨-, he⟩ | ⟨hs, he⟩ | ⟨-, he⟩ | ⟨-, he⟩ := boundaryTransition_cases s <;> rw [he] at hne ⊢
    · exact absurd rfl hne
    · exact .inr (.inl ⟨rfl, hs, rfl⟩)
    · exact absurd rfl hne
    · exact absurd rfl hne
  | msmTake now =>
    obtain ⟨-, ⟨hs, rfl⟩ | ⟨-, rfl⟩⟩ := ht
    · exact .inr (.inr (.inr (.inl ⟨⟨now, rfl⟩, hs, rfl⟩)))
    · exact absurd rfl hne
  | msmReset =>
    obtain ⟨-, rfl⟩ := ht
    exact .inr (.inr (.inr (.inr ⟨.inl rfl, rfl⟩)))
  | sysReset =>
    subst ht
    exact .inr (.inr (.inr (.inr ⟨.inr rfl, rfl⟩)))
  | _ => exact absurd rfl hwrites

end Sys2Proof.Machine
end

section
/-! PROOFS. The fixed-point packer (45_packer.md R150 to R154): its three outcomes told apart by the exact products, and then
facts about those products alone: the rounding of the quotient, its growth, and the products within the source's bounds. -/

namespace Sys2Proof.Machine

/-! ### The three outcomes (45_packer.md R150) -/

/-- `PACK` puts its result on the result port and writes nothing else (45_packer.md R151). -/
theorem exec_pack_of_result {i j : Word} {k d : Half} {s : State} {q : Word} (h : hostMayAct s)
    (hr : packResult i k j d = some q) : exec (.pack i k j d) s = .next (s.ret (.u32 q)) := by
  simp only [exec, execPack]
  rw [hostOperation_of_mayAct _ h]
  simp only [hr]
  rfl

theorem exec_pack_outOfDomain {i j : Word} {k d : Half} {s : State} (h : hostMayAct s)
    (hr : packResult i k j d = none) : exec (.pack i k j d) s = .refused .packOutOfDomain := by
  simp only [exec, execPack]
  rw [hostOperation_of_mayAct _ h]
  simp only [hr]

theorem exec_pack_saturates {i j : Word} {k d : Half} {s : State} (h : hostMayAct s)
    (hsat : packDenom j d ≤ packNumer i k d) : exec (.pack i k j d) s = .next (s.ret (.u32 0xFFFFFFFF)) :=
  exec_pack_of_result h (packResult_saturates hsat)

theorem exec_pack_quotient {i j : Word} {k d : Half} {s : State} (h : hostMayAct s)
    (hlt : packNumer i k d < packDenom j d) (hd : packDenom j d < 2 ^ 32) :
    ∃ q : Word, q.toNat = packQuotient (packNumer i k d) (packDenom j d) ∧
      exec (.pack i k j d) s = .next (s.ret (.u32 q)) := by
  obtain ⟨q, hr, hq⟩ := packResult_quotient hlt hd
  exact ⟨q, hq, exec_pack_of_result h hr⟩

/-- Settles O53: the two comparisons of the exact products tell the three outcomes apart. -/
theorem packReturnsTheRoundedQuotient : Obligations.PackReturnsTheRoundedQuotient := fun _ _ _ _ =>
  ⟨rfl, rfl, fun _ hact => ⟨exec_pack_saturates hact, exec_pack_quotient hact,
    fun hlt hd => exec_pack_outOfDomain hact (packResult_none hlt hd)⟩⟩

/-! ### Rounding to the nearest (45_packer.md R153) -/

/-- Half of the denominator, added before the division, puts the quotient at most one half away, a tie rounded up. -/
theorem packQuotient_within_half {numer denom : Nat} (hpos : 0 < denom) :
    2 * (packQuotient numer denom * denom) ≤ 2 * (numer * 2 ^ 32) + denom ∧
      2 * (numer * 2 ^ 32) < 2 * (packQuotient numer denom * denom) + denom := by
  have hle : packQuotient numer denom * denom ≤ numer * 2 ^ 32 + denom / 2 := Nat.div_mul_le_self _ _
  have hlt : numer * 2 ^ 32 + denom / 2 < packQuotient numer denom * denom + denom := Nat.lt_div_mul_add hpos
  omega

/-- A tie needs a denominator divisible by `2^33`: the other factor, `2 q - 1`, is odd. -/
theorem two_pow_dvd_of_tie {numer denom q : Nat} (hpos : 0 < denom)
    (htie : 2 * (q * denom) = 2 * (numer * 2 ^ 32) + denom) : 2 ^ 33 ∣ denom := by
  cases q with
  | zero => omega
  | succ p =>
    have hodd : Nat.Coprime (2 ^ 33) (2 * p + 1) := Nat.Coprime.pow_left 33 (by simp)
    refine hodd.dvd_of_dvd_mul_left ⟨numer, ?_⟩
    linarith

theorem packQuotient_nearest {numer denom : Nat} (h : numer < denom) (hd : denom < 2 ^ 32) :
    2 * (packQuotient numer denom * denom) < 2 * (numer * 2 ^ 32) + denom ∧
      2 * (numer * 2 ^ 32) < 2 * (packQuotient numer denom * denom) + denom := by
  have hpos : 0 < denom := Nat.zero_lt_of_lt h
  obtain ⟨hle, hlt⟩ := packQuotient_within_half (numer := numer) hpos
  have hnotie : 2 * (packQuotient numer denom * denom) ≠ 2 * (numer * 2 ^ 32) + denom := fun htie => by
    have hbig : 2 ^ 33 ≤ denom := Nat.le_of_dvd hpos (two_pow_dvd_of_tie hpos htie)
    omega
  exact ⟨lt_of_le_of_ne hle hnotie, hlt⟩

/-- Settles O54: what `PACK` returns is the quotient itself, and a denominator below `2^32` leaves no tie. -/
theorem packRoundsToTheNearest : Obligations.PackRoundsToTheNearest := by
  intro i k j d s hact hlt hd
  obtain ⟨q, hq, hexec⟩ := exec_pack_quotient hact hlt hd
  exact ⟨q, hexec, hq ▸ packQuotient_nearest hlt hd⟩

/-! ### Growth (45_packer.md R154) -/

theorem packNumer_mono {i i' : Word} {k k' d : Half} (hi : i.toNat ≤ i'.toNat) (hk : k.toNat ≤ k'.toNat) :
    packNumer i k d ≤ packNumer i' k' d :=
  Nat.add_le_add (Nat.mul_le_mul_right _ hi) hk

theorem packQuotient_mono {numer numer' : Nat} (denom : Nat) (h : numer ≤ numer') :
    packQuotient numer denom ≤ packQuotient numer' denom :=
  Nat.div_le_div_right (Nat.add_le_add_right (Nat.mul_le_mul_right _ h) _)

/-- What a result of `PACK` can be: the saturated value or the rounded quotient, each in its own domain. -/
theorem packResult_cases {i j : Word} {k d : Half} {q : Word} (h : packResult i k j d = some q) :
    (packDenom j d ≤ packNumer i k d ∧ q = 0xFFFFFFFF) ∨
      (packNumer i k d < packDenom j d ∧ q.toNat = packQuotient (packNumer i k d) (packDenom j d)) := by
  rcases Nat.lt_or_ge (packNumer i k d) (packDenom j d) with hlt | hsat
  · rcases Nat.lt_or_ge (packDenom j d) (2 ^ 32) with hd | hd
    · obtain ⟨r, hr, hquot⟩ := packResult_quotient hlt hd
      obtain rfl : r = q := Option.some.inj (hr.symm.trans h)
      exact .inr ⟨hlt, hquot⟩
    · rw [packResult_none hlt hd] at h
      cases h
  · rw [packResult_saturates hsat] at h
    exact .inl ⟨hsat, (Option.some.inj h).symm⟩

/-- The saturated value is the greatest of all, and a greater numerator never leaves the saturated branch. -/
theorem packResult_mono {i i' j : Word} {k k' d : Half} {q q' : Word} (hi : i.toNat ≤ i'.toNat)
    (hk : k.toNat ≤ k'.toNat) (h : packResult i k j d = some q) (h' : packResult i' k' j d = some q') :
    q.toNat ≤ q'.toNat := by
  have hnumer : packNumer i k d ≤ packNumer i' k' d := packNumer_mono hi hk
  rcases packResult_cases h' with ⟨-, rfl⟩ | ⟨hlt', hq'⟩
  · exact Nat.le_of_lt_succ q.isLt
  · rcases packResult_cases h with ⟨hsat, -⟩ | ⟨-, hq⟩
    · exact absurd (hsat.trans hnumer) (Nat.not_le.mpr hlt')
    · rw [hq, hq']
      exact packQuotient_mono _ hnumer

/-- The number on the result port after `PACK` is its result. -/
theorem packResult_of_exec {i j : Word} {k d : Half} {s t : State} {q : Word}
    (h : exec (.pack i k j d) s = .next t) (hresp : t.resp = some (.u32 q)) : packResult i k j d = some q := by
  obtain ⟨-, r, hr, rfl⟩ := effect_of_exec h
  cases hresp
  exact hr

/-- Settles O55: both results are of the operands alone, over one denominator. -/
theorem packIsMonotone : Obligations.PackIsMonotone := by
  intro i i' k k' j d s t t' q q' hi hk h hq h' hq'
  exact packResult_mono hi hk (packResult_of_exec h hq) (packResult_of_exec h' hq')

/-! ### Within the source's bounds (45_packer.md R152) -/

/-- `750000 * 4094` fits 32 bits, so that no operands within the bounds are refused. -/
theorem packDenom_lt_of_bounds {j : Word} {d : Half} (hj : j.toNat ≤ Config.maxLen) (hd : d.toNat ≤ Config.dMax) :
    packDenom j d < 2 ^ 32 :=
  calc packDenom j d ≤ Config.maxLen * Config.dMax := Nat.mul_le_mul hj hd
    _ < 2 ^ 32 := by decide

/-- With `K < D` the numerator is the mixed number with integer part `I`. -/
theorem packNumer_lt_packDenom {i j : Word} {k d : Half} (hk : k.toNat < d.toNat) (hij : i.toNat < j.toNat) :
    packNumer i k d < packDenom j d :=
  calc packNumer i k d < i.toNat * d.toNat + d.toNat := Nat.add_lt_add_left hk _
    _ = (i.toNat + 1) * d.toNat := (Nat.succ_mul _ _).symm
    _ ≤ packDenom j d := Nat.mul_le_mul_right _ hij

theorem packDenom_le_packNumer {i j : Word} {k d : Half} (hji : j.toNat ≤ i.toNat) : packDenom j d ≤ packNumer i k d :=
  Nat.le_add_right_of_le (Nat.mul_le_mul_right _ hji)

/-- Settles O56: the denominator is in the domain, and `K < D` lets `I` and `J` alone decide between the other two. -/
theorem packCompletesWithinItsPreconditions : Obligations.PackCompletesWithinItsPreconditions := by
  intro i k j d s hact hj hd
  have hdenom : packDenom j d < 2 ^ 32 := packDenom_lt_of_bounds hj hd
  refine ⟨?completes, fun hk hij => exec_pack_quotient hact (packNumer_lt_packDenom hk hij) hdenom,
    fun _ hji => exec_pack_saturates hact (packDenom_le_packNumer hji)⟩
  case completes =>
    rcases Nat.lt_or_ge (packNumer i k d) (packDenom j d) with hlt | hsat
    · obtain ⟨q, -, hexec⟩ := exec_pack_quotient hact hlt hdenom
      exact ⟨q, hexec⟩
    · exact ⟨_, exec_pack_saturates hact hsat⟩

end Sys2Proof.Machine
end

section
/-! PROOFS. `SYS.RESET` and the critical-section primitive (46_system.md R160 to R162), and that the data registers which
`SYS.RESET` leaves unspecified never show: an operation either has no part in them, or reads them only where they are live
(10_state.md R23 to R26). -/

namespace Sys2Proof.Machine

/-! ### `SYS.RESET` (46_system.md R162) -/

/-- Settles O26: the state after the operation is the one after reset but for the draws, the trace and its mode. -/
theorem sysResetGivesTheResetColumn : Obligations.SysResetGivesTheResetColumn := by
  intro s
  exact ⟨_, rfl, ⟨rfl, rfl, rfl, rfl, rfl, rfl⟩, ⟨rfl, rfl, rfl⟩, ⟨rfl, rfl, rfl, rfl⟩,
    ⟨rfl, rfl, rfl, rfl, rfl⟩, rfl, rfl, rfl⟩

/-! ### `IRQ.DEFER` and `IRQ.RESUME` (46_system.md R160, R161) -/

theorem exec_irqDefer {s : State} (h : hostMayAct s) (m : Bits3) :
    exec (.irqDefer m) s = .next { s with irqMask := s.irqMask ||| m, resp := some .ok } :=
  hostOperation_of_mayAct _ h

theorem exec_irqResume {s : State} (h : hostMayAct s) (m : Bits3) :
    exec (.irqResume m) s = .next { s with irqMask := s.irqMask &&& ~~~m, resp := some .ok } :=
  hostOperation_of_mayAct _ h

/-- A source with its bit in the mask is not enabled. -/
theorem enabled_of_deferred {x : Source} {s : State} (h : deferred x s = true) : enabled x s = false := by
  simp [enabled, h]

/-- A source without its bit in the mask is enabled exactly if it is pending. -/
theorem enabled_of_not_deferred {x : Source} {s : State} (h : deferred x s = false) : enabled x s = pending x s := by
  simp [enabled, h]

/-- A source not enabled is without its pending flag or deferred. -/
theorem not_pending_or_deferred {x : Source} {s : State} (h : enabled x s = false) :
    pending x s = false ∨ deferred x s = true := by
  simpa [enabled, imp_iff_not_or] using h

/-- Settles O57: a bit of `m` is set in the mask joined with `m` and clear in the mask without `m`, and the mask alone
decides which pending source is enabled. -/
theorem deferAndResumeSetTheMask : Obligations.DeferAndResumeSetTheMask := by
  intro m
  refine ⟨rfl, rfl, rfl, rfl, fun s hact => ⟨⟨_, exec_irqDefer hact m, rfl, fun x hx => ⟨?_, ?_⟩⟩,
    _, exec_irqResume hact m, rfl, fun x hx => ?_⟩⟩
  · exact enabled_of_deferred (by simp [deferred, hx])
  · exact not_pending_or_deferred (nextHandler_eq_none.mp hact x)
  · exact enabled_of_not_deferred (by simp [deferred, hx])

/-! ### Updates that have no part in the unspecified data -/

/-- The state with the data registers of another, and its count of draws: what `LiveEq` lets differ. -/
def State.withDataOf (s d : State) : State :=
  { s with baseline := d.baseline, negCounts := d.negCounts, value := d.value, smpData := d.smpData, draws := d.draws }

theorem LiveEq.eq_withDataOf {s t : State} (h : LiveEq s t) : t = s.withDataOf t := h.rest

/-- The data registers and the count of draws, with the status and the pending flag that say which of them are live. -/
def dataPart (s : State) : MeasurementStatus × Bool × Half × Word × Word × Half × Nat :=
  (s.status, s.smpPending, s.baseline, s.negCounts, s.value, s.smpData, s.draws)

/-- An update that does not read the data registers, nor write them, nor change which of them are live. -/
structure DataFree (f : State → State) : Prop where
  /-- It does the same whatever data the state holds. -/
  comm : ∀ s d, f (s.withDataOf d) = (f s).withDataOf d
  /-- It leaves the data and its liveness as they are. -/
  keeps : ∀ s, dataPart (f s) = dataPart s

theorem DataFree.comp {f g : State → State} (hg : DataFree g) (hf : DataFree f) : DataFree (g ∘ f) where
  comm s d := (congrArg g (hf.comm s d)).trans (hg.comm (f s) d)
  keeps s := (hg.keeps (f s)).trans (hf.keeps s)

/-- A choice between two such updates, on a condition that does not read the data either. -/
theorem DataFree.ite {p : State → Prop} [DecidablePred p] {f g : State → State}
    (hp : ∀ s d, p (s.withDataOf d) ↔ p s) (hf : DataFree f) (hg : DataFree g) :
    DataFree fun s => if p s then f s else g s where
  comm s d := by
    by_cases h : p s
    · simp only [hp, h, if_true, hf.comm]
    · simp only [hp, h, if_false, hg.comm]
  keeps s := by
    by_cases h : p s
    · simp only [h, if_true, hf.keeps]
    · simp only [h, if_false, hg.keeps]

theorem dataFree_id : DataFree id := ⟨fun _ _ => rfl, fun _ => rfl⟩

theorem dataFree_blankAdvance : DataFree blankAdvance :=
  .ite (fun _ _ => Iff.rfl) ⟨fun _ _ => rfl, fun _ => rfl⟩ dataFree_id

theorem dataFree_npcCount : DataFree npcCount :=
  .ite (fun _ _ => Iff.rfl)
    (.ite (fun _ _ => Iff.rfl) ⟨fun _ _ => rfl, fun _ => rfl⟩ ⟨fun _ _ => rfl, fun _ => rfl⟩) dataFree_id

theorem dataFree_wecAdvance (len : Half) : DataFree (wecAdvance len) :=
  .ite (fun _ _ => Iff.rfl)
    (.ite (fun _ _ => Iff.rfl)
      (.ite (fun _ _ => Iff.rfl) ⟨fun _ _ => rfl, fun _ => rfl⟩ ⟨fun _ _ => rfl, fun _ => rfl⟩)
      ⟨fun _ _ => rfl, fun _ => rfl⟩)
    dataFree_id

/-- A clock event samples, advances the blanker, counts a pulse and advances the window (41_polarity_synchronizer.md R90);
none of it concerns the data. -/
theorem dataFree_clockEvent (len : Half) (c : Bool) : DataFree (clockEvent len c) := by
  have hsample : DataFree fun s => { s with polQ := c } := ⟨fun _ _ => rfl, fun _ => rfl⟩
  have hpulse : DataFree fun s => if c == Config.activeLevel then npcCount s else s :=
    .ite (fun _ _ => Iff.rfl) dataFree_npcCount dataFree_id
  exact (dataFree_wecAdvance len).comp (hpulse.comp (dataFree_blankAdvance.comp hsample))

/-- States equal in their live data stay so under an update that has no part in the data. That a record update is one is
seen by computing; the default proof does. -/
theorem LiveEq.map {f : State → State} {s t : State} (h : LiveEq s t)
    (hf : DataFree f := by exact ⟨fun _ _ => rfl, fun _ => rfl⟩) : LiveEq (f s) (f t) := by
  have hs := hf.keeps s
  have ht := hf.keeps t
  simp only [dataPart, Prod.mk.injEq] at hs ht
  obtain ⟨hstatus, hpending, hbase, hneg, hvalue, hdata, -⟩ := hs
  obtain ⟨-, -, hbase', hneg', hvalue', hdata', hdraws'⟩ := ht
  have hrest : f t = (f s).withDataOf t := (congrArg f h.eq_withDataOf).trans (hf.comm s t)
  constructor
  case rest => rwa [hbase', hneg', hvalue', hdata', hdraws']
  case baseline => rw [hstatus, hbase, hbase']; exact h.baseline
  case negCounts => rw [hstatus, hneg, hneg']; exact h.negCounts
  case value => rw [hstatus, hvalue, hvalue']; exact h.value
  case smpData => rw [hpending, hdata, hdata']; exact h.smpData

theorem LiveEq.ret {s t : State} (h : LiveEq s t) (r : Response) : LiveEq (s.ret r) (t.ret r) :=
  h.map (f := (·.ret r))

theorem LiveEq.silent {s t : State} (h : LiveEq s t) : LiveEq s.silent t.silent := h.map (f := State.silent)

/-- What does not read the data is the same in both states. -/
theorem LiveEq.same {α : Type} {s t : State} (h : LiveEq s t) (read : State → α)
    (hread : ∀ s d, read (s.withDataOf d) = read s := by exact fun _ _ => rfl) : read s = read t :=
  (hread s t).symm.trans (congrArg read h.eq_withDataOf.symm)

/-! ### Updates of the data and of its liveness (10_state.md R23 to R26) -/

/-- A reading replaces the one before it (44_measurement_sm.md R130). -/
theorem LiveEq.sample {s t : State} (h : LiveEq s t) (r : Half) :
    LiveEq { s with smpData := r, smpPending := true } { t with smpData := r, smpPending := true } where
  rest := congrArg (fun u : State => { u with smpData := r, smpPending := true }) h.rest
  baseline := h.baseline
  negCounts := h.negCounts
  value := h.value
  smpData _ := rfl

/-- In CLEAN no register but `smp_data` is live. -/
theorem LiveEq.clean {s t : State} (h : LiveEq s t) :
    LiveEq { s with status := .clean } { t with status := .clean } where
  rest := congrArg (fun u : State => { u with status := .clean }) h.rest
  baseline := nofun
  negCounts := nofun
  value := nofun
  smpData := h.smpData

/-- A boundary in PREV_CHARGE captures a count, and `baseline` stays live (44_measurement_sm.md R132). -/
theorem LiveEq.capture {s t : State} (h : LiveEq s t) (hstatus : s.status = .prevCharge) {m n : Word}
    (hcount : m = n) :
    LiveEq { s with negCounts := m, status := .negativeCounts } { t with negCounts := n, status := .negativeCounts } where
  rest := congrArg (fun u : State => { u with negCounts := n, status := .negativeCounts }) h.rest
  baseline _ := h.baseline (.inl hstatus)
  negCounts _ := hcount
  value := nofun
  smpData := h.smpData

/-- The first sample becomes the baseline (44_measurement_sm.md R131). -/
theorem LiveEq.firstSample {s t : State} (h : LiveEq s t) {a b : Half} (hreading : a = b) :
    LiveEq { s with baseline := a, status := .prevCharge } { t with baseline := b, status := .prevCharge } where
  rest := congrArg (fun u : State => { u with baseline := b, status := .prevCharge }) h.rest
  baseline _ := hreading
  negCounts := nofun
  value := nofun
  smpData := h.smpData

/-- The second sample completes the result, whose count is live since its capture (44_measurement_sm.md R131). -/
theorem LiveEq.secondSample {s t : State} (h : LiveEq s t) (hstatus : s.status = .negativeCounts) {m n : Word}
    (hdifference : m = n) {a b : Half} (hreading : a = b) :
    LiveEq { s with value := m, baseline := a, status := .resultAvail }
      { t with value := n, baseline := b, status := .resultAvail } where
  rest := congrArg (fun u : State => { u with value := n, baseline := b, status := .resultAvail }) h.rest
  baseline _ := hreading
  negCounts _ := h.negCounts (.inl hstatus)
  value _ := hdifference
  smpData := h.smpData

/-- The transition at a boundary reads no data. -/
theorem boundaryTransition_liveEq {s t : State} (h : LiveEq s t) :
    LiveEq (boundaryTransition s) (boundaryTransition t) := by
  unfold boundaryTransition
  rw [← h.same State.status]
  cases hstatus : s.status with
  | clean => exact h
  | prevCharge => exact h.capture hstatus (h.same fun s => combine s.pcLow s.pcHigh)
  | negativeCounts => exact h.map (f := seqError .dupBoundary)
  | resultAvail => exact h.map (f := seqError .overrun)

/-- The transition on a sample reads the reading, and `baseline` only where it is live. -/
theorem sampleTransition_liveEq {s t : State} (h : LiveEq s t) (hdata : s.smpData = t.smpData) :
    LiveEq (sampleTransition s) (sampleTransition t) := by
  unfold sampleTransition
  rw [← h.same State.status]
  cases hstatus : s.status with
  | clean => exact h.firstSample hdata
  | prevCharge => exact h.map (f := seqError .dupSample)
  | negativeCounts =>
    have hdifference : sampleDifference s.smpData s.baseline = sampleDifference t.smpData t.baseline := by
      rw [hdata, h.baseline (.inr hstatus)]
    exact h.secondSample hstatus hdifference hdata
  | resultAvail => exact h.map (f := seqError .overrun)

theorem windowRearm_liveEq {s t : State} (h : LiveEq s t) :
    LiveEq (windowRearm boundaryTransition s) (windowRearm boundaryTransition t) := by
  rw [windowRearm_boundary, windowRearm_boundary, ← h.same State.wcRun, ← h.same State.pcRun]
  exact (boundaryTransition_liveEq h).map (f := fun u => { u with
    pcLow := 0, pcHigh := 0, wcLow := 0, wcHigh := 0, bndPending := false, wcRun := s.wcRun, pcRun := s.pcRun })

/-- The four registers drawn differently are none of them live after `SYS.RESET` (46_system.md R162). -/
theorem sysReset_liveEq {s t : State} (h : LiveEq s t) :
    ∃ s' t', exec .sysReset s = .next s' ∧ exec .sysReset t = .next t' ∧ LiveEq s' t' := by
  refine ⟨_, _, rfl, rfl, ?_⟩
  rw [← h.same State.trace, ← h.same State.mode]
  exact ⟨rfl, nofun, nofun, nofun, nofun⟩

/-! ### Every operation -/

/-- Two outcomes are alike to an observer: next states equal in their live data, or one and the same refusal. -/
def OutcomesLiveEq : Host.Outcome State Fault Refusal → Host.Outcome State Fault Refusal → Prop
  | .next s, .next t => LiveEq s t
  | .refused r, .refused q => r = q
  | _, _ => False

/-- A test that comes out the same in both states leads to alike outcomes if either branch does. -/
theorem OutcomesLiveEq.ite {p q : Prop} [Decidable p] [Decidable q] {a b a' b' : Host.Outcome State Fault Refusal}
    (hpq : p = q) (ha : p → OutcomesLiveEq a a') (hb : ¬ p → OutcomesLiveEq b b') :
    OutcomesLiveEq (if p then a else b) (if q then a' else b') := by
  subst hpq
  by_cases h : p
  · simpa only [h, if_true] using ha h
  · simpa only [h, if_false] using hb h

theorem hostOperation_liveEq {s t : State} {body : State → Host.Outcome State Fault Refusal} (h : LiveEq s t)
    (hbody : OutcomesLiveEq (body s) (body t)) : OutcomesLiveEq (hostOperation body s) (hostOperation body t) := by
  unfold hostOperation
  rw [← h.same nextHandler]
  cases nextHandler s with
  | none => exact hbody
  | some x => rfl

/-- The body of a handler step has its source enabled, and so its pending flag set. -/
theorem takeInterrupt_liveEq {s t : State} {x : Source} {body : State → Host.Outcome State Fault Refusal}
    (h : LiveEq s t) (hbody : pending x s = true → OutcomesLiveEq (body s) (body t)) :
    OutcomesLiveEq (takeInterrupt x body s) (takeInterrupt x body t) := by
  have hturn : (nextHandler s ≠ some x) = (nextHandler t ≠ some x) := h.same (nextHandler · ≠ some x)
  unfold takeInterrupt
  refine .ite (h.same (fun s => (!enabled x s) = true) fun _ _ => ?_) (fun _ => rfl) fun hon =>
    .ite hturn (fun _ => rfl) fun _ => ?_
  · cases x <;> rfl
  · exact hbody (enabled_iff.mp (by simpa using hon)).1

theorem event_liveEq {i : Instr} {s t : State} (hk : i.kind = .event) (h : LiveEq s t) :
    OutcomesLiveEq (exec i s) (exec i t) := by
  cases i with
  | sysReset =>
    obtain ⟨s', t', hs, ht, hlive⟩ := sysReset_liveEq h
    rw [hs, ht]
    exact hlive
  | evTick c => exact (h.map (dataFree_clockEvent Config.blankLen c)).silent
  | evSample r => exact (h.sample r).silent
  | _ => cases hk

/-- Of the handler steps only `ISR.SMP` reads data, and `smp_data` is live while its source is pending. -/
theorem handler_liveEq (x : Source) {s t : State} (h : LiveEq s t) :
    OutcomesLiveEq (exec x.handler s) (exec x.handler t) := by
  cases x with
  | ovf =>
    simp only [Source.handler, exec, execIsrOvf]
    refine takeInterrupt_liveEq h fun _ => .ite (h.same (·.pcHigh = 0xFF)) (fun _ => rfl) fun _ => ?_
    exact (h.map (f := fun s => { s with pcHigh := s.pcHigh + 1, ovfPending := false })).silent
  | bnd =>
    simp only [Source.handler, exec, execIsrBnd]
    exact takeInterrupt_liveEq h fun _ => (windowRearm_liveEq h).silent
  | smp =>
    simp only [Source.handler, exec, execIsrSmp]
    refine takeInterrupt_liveEq h fun hp => ?_
    have hack : LiveEq { s with smpPending := false } { t with smpPending := false } :=
      ⟨congrArg (fun u : State => { u with smpPending := false }) h.rest, h.baseline, h.negCounts, h.value, nofun⟩
    exact (sampleTransition_liveEq hack (h.smpData hp)).silent

/-- A host operation that returns what it reads elsewhere than in the data, and writes nothing. -/
theorem hostRead_liveEq {s t : State} (h : LiveEq s t) (result : State → Response)
    (hresult : ∀ s d, result (s.withDataOf d) = result s := by exact fun _ _ => rfl) :
    OutcomesLiveEq (hostOperation (fun s => completes id (result s) s) s)
      (hostOperation (fun s => completes id (result s) s) t) := by
  refine hostOperation_liveEq h ?_
  rw [← h.same result hresult]
  exact h.ret (result s)

/-- Of the host operations only `MSM.TAKE` reads data, and what it hands off is live while a result is available
(44_measurement_sm.md R137). -/
theorem host_liveEq {i : Instr} {s t : State} (hk : i.kind = .host) (h : LiveEq s t) :
    OutcomesLiveEq (exec i s) (exec i t) := by
  cases i with
  | wcConfigure len div =>
    simp only [exec, execWcConfigure]
    refine hostOperation_liveEq h (.ite (h.same (·.wcRun = true)) (fun _ => rfl) fun _ =>
      .ite rfl (fun _ => h.ret .errNotDivisible) fun _ => .ite rfl (fun _ => rfl) fun _ => ?_)
    exact (h.map (f := fun s => { s with winLen := len, winDiv := div })).ret .ok
  | wcStart =>
    simp only [exec, execWcStart]
    refine hostOperation_liveEq h (.ite (h.same (·.wcRun = true)) (fun _ => h.ret .ok) fun _ =>
      .ite (h.same (freshlyReset · = true)) (fun _ => ?_) fun _ => rfl)
    exact (h.map (f := fun s => { s with wcRun := true })).ret .ok
  | wcReset =>
    simp only [exec, execWcReset]
    exact hostOperation_liveEq h (.ite (h.same (·.wcRun = true)) (fun _ => rfl) fun _ =>
      (h.map (f := clearWindow)).ret .ok)
  | npcReset =>
    simp only [exec, execNpcReset]
    exact hostOperation_liveEq h (.ite (h.same (·.pcRun = true)) (fun _ => rfl) fun _ =>
      (h.map (f := clearPulseCount)).ret .ok)
  | wcStop => exact hostOperation_liveEq h ((h.map (f := fun s => { s with wcRun := false })).ret .ok)
  | npcStart => exact hostOperation_liveEq h ((h.map (f := fun s => { s with pcRun := true })).ret .ok)
  | npcStop => exact hostOperation_liveEq h ((h.map (f := fun s => { s with pcRun := false })).ret .ok)
  | irqDefer m => exact hostOperation_liveEq h ((h.map (f := fun s => { s with irqMask := s.irqMask ||| m })).ret .ok)
  | irqResume m =>
    exact hostOperation_liveEq h ((h.map (f := fun s => { s with irqMask := s.irqMask &&& ~~~m })).ret .ok)
  | npcRead => exact hostRead_liveEq h fun s => .u32 (combine s.pcLow s.pcHigh)
  | npcRdlo => exact hostRead_liveEq h fun s => .u16 s.pcLow
  | npcRdhi => exact hostRead_liveEq h fun s => .u8 s.pcHigh
  | msmStatus => exact hostRead_liveEq h fun s => .u8 ((statusCode s.status).setWidth 8)
  | msmErrors => exact hostRead_liveEq h fun s => .errors s.errCount (s.errFlags.setWidth 8)
  | msmReset => exact hostOperation_liveEq h (h.clean.ret .ok)
  | msmTake now =>
    simp only [exec, execMsmTake]
    refine hostOperation_liveEq h (.ite (h.same (·.status = .resultAvail)) (fun havail => ?_) fun _ => h.ret .noResult)
    rw [← h.value havail, ← h.negCounts (.inr havail)]
    exact h.clean.ret _
  | pack a k j d =>
    simp only [exec, execPack]
    refine hostOperation_liveEq h ?_
    cases packResult a k j d with
    | none => rfl
    | some r => exact h.ret (.u32 r)
  | _ => cases hk

/-- From states equal in their live data, the outcomes of an operation are alike. -/
theorem exec_liveEq (i : Instr) {s t : State} (h : LiveEq s t) : OutcomesLiveEq (exec i s) (exec i t) := by
  cases hk : i.kind with
  | event => exact event_liveEq hk h
  | handlerStep =>
    cases i with
    | isrOvf => exact handler_liveEq .ovf h
    | isrBnd => exact handler_liveEq .bnd h
    | isrSmp => exact handler_liveEq .smp h
    | _ => cases hk
  | host => exact host_liveEq hk h

/-! ### Every step -/

/-- The trace lists the same operation next in both states, or is refused alike. -/
theorem listedOperation_withDataOf (s d : State) :
    listedOperation (s.withDataOf d) = (listedOperation s).map fun (i, u) => (i, u.withDataOf d) := by
  unfold listedOperation
  rw [show (s.withDataOf d).trace = s.trace from rfl, show (s.withDataOf d).mode = s.mode from rfl]
  cases decode s.trace with
  | error e => rfl
  | ok r =>
    obtain ⟨i, rest⟩ := r
    dsimp only
    cases s.mode.admits i <;> rfl

theorem nextOperation_withDataOf (s d : State) :
    nextOperation (s.withDataOf d) = (nextOperation s).map fun (i, u) => (i, u.withDataOf d) := by
  unfold nextOperation
  rw [show (s.withDataOf d).mode = s.mode from rfl, show nextHandler (s.withDataOf d) = nextHandler s from rfl]
  cases s.mode with
  | explicit => exact listedOperation_withDataOf s d
  | prompt =>
    cases nextHandler s with
    | none => exact listedOperation_withDataOf s d
    | some x => rfl

/-- The state an operation is performed on differs from the one before the step in the trace alone. -/
theorem nextOperation_ok_state {s u : State} {i : Instr} (h : nextOperation s = .ok (i, u)) :
    u = s.withTrace u.trace := by
  obtain ⟨x, -, -, -, rfl⟩ | ⟨rest, -, -, rfl⟩ := nextOperation_ok h
  · rfl
  · rfl

theorem step_liveEq {s t : State} (h : LiveEq s t) : OutcomesLiveEq (step s) (step t) := by
  have hnext := nextOperation_withDataOf s t
  rw [← h.eq_withDataOf] at hnext
  unfold step
  rw [hnext]
  cases hs : nextOperation s with
  | error r => rfl
  | ok iu =>
    obtain ⟨i, u⟩ := iu
    have hu : LiveEq (s.withTrace u.trace) (t.withTrace u.trace) := h.map (f := (·.withTrace u.trace))
    have ht : t.withTrace u.trace = u.withDataOf t := by
      rw [nextOperation_ok_state hs]
      exact congrArg (·.withTrace u.trace) h.eq_withDataOf
    rw [← nextOperation_ok_state hs, ht] at hu
    exact exec_liveEq i hu

/-- Settles O22: the two steps end alike, and states equal but for data and draws hold the same result. -/
theorem unspecifiedDataIsNeverObserved : Obligations.UnspecifiedDataIsNeverObserved := by
  intro s t h
  have hstep := step_liveEq h
  refine ⟨fun s' hs => ?_, fun r hs => ?_⟩ <;> rw [hs] at hstep
  · cases ht : step t with
    | next t' =>
      rw [ht] at hstep
      have hlive : LiveEq s' t' := hstep
      exact ⟨t', rfl, hlive, hlive.same State.resp⟩
    | fault f => cases f
    | refused q => rw [ht] at hstep; exact hstep.elim
  · cases ht : step t with
    | next t' => rw [ht] at hstep; exact hstep.elim
    | fault f => cases f
    | refused q =>
      rw [ht] at hstep
      exact congrArg _ (Eq.symm hstep)

end Sys2Proof.Machine
end

section
/-! PROOFS. The dispatch of handlers (60_exceptions.md R178) and the two ways to write a trace (60_exceptions.md R182): which
operation comes next, which are refused because it is not their turn, and that a prompt run is an explicit run with the
handler steps it performed listed. -/

namespace Sys2Proof.Machine

/-! ### The handler that comes next (60_exceptions.md R178) -/

/-- No enabled source has a higher priority than the one whose handler comes next. -/
theorem sourceNumber_le_of_nextHandler {s : State} {x y : Source} (hx : nextHandler s = some x)
    (hy : enabled y s = true) : sourceNumber x ≤ sourceNumber y := by
  cases x with
  | ovf => exact Nat.zero_le _
  | bnd =>
    obtain ⟨-, hovf⟩ := nextHandler_bnd_iff.mp hx
    cases y with
    | ovf => exact absurd hy hovf
    | bnd | smp => decide
  | smp =>
    obtain ⟨-, hovf, hbnd⟩ := nextHandler_smp_iff.mp hx
    cases y with
    | ovf => exact absurd hy hovf
    | bnd => exact absurd hy hbnd
    | smp => decide

theorem sourceNumber_injective : Function.Injective sourceNumber := by
  intro x y
  cases x <;> cases y <;> decide

/-- Settles O12: where a source is enabled some handler comes next, and its source and the enabled one of highest priority
rank no lower than each other, so they are the same. -/
theorem nextHandlerIsTheEnabledOneOfHighestPriority : Obligations.NextHandlerIsTheEnabledOneOfHighestPriority := by
  intro s x
  constructor
  · exact fun hx => ⟨enabled_of_nextHandler hx, fun y hy => sourceNumber_le_of_nextHandler hx hy⟩
  · rintro ⟨hx, hfirst⟩
    obtain ⟨z, hz⟩ := nextHandler_isSome hx
    have hzx : sourceNumber z ≤ sourceNumber x := sourceNumber_le_of_nextHandler hz hx
    have hxz : sourceNumber x ≤ sourceNumber z := hfirst z (enabled_of_nextHandler hz)
    rw [hz, sourceNumber_injective (Nat.le_antisymm hzx hxz)]

/-! ### Operations out of turn (60_exceptions.md R178, R182) -/

/-- A handler step whose source is enabled, but not next, is refused. -/
theorem takeInterrupt_outranked {x : Source} {s : State} (body : State → Host.Outcome State Fault Refusal)
    (he : enabled x s = true) (hn : nextHandler s ≠ some x) : takeInterrupt x body s = .refused .handlerOutranked := by
  simp [takeInterrupt, he, hn]

/-- Settles O13: the body of a handler step is not reached where its source is not enabled, nor where another source of
higher priority is, since the handler that comes next is then not its own. -/
theorem handlerStepNeedsItsTurn : Obligations.HandlerStepNeedsItsTurn := by
  intro x s
  obtain ⟨body, hbody⟩ := exec_handler x
  rw [hbody]
  refine ⟨takeInterrupt_notEnabled body, fun y hx hy hlt => takeInterrupt_outranked body hx fun hnext => ?_⟩
  exact absurd hlt (Nat.not_lt.mpr (sourceNumber_le_of_nextHandler hnext hy))

/-- Settles O14: an enabled source makes some handler come next, and then the body of a host operation is not reached. -/
theorem hostOperationWaitsForHandlers : Obligations.HostOperationWaitsForHandlers := by
  intro i x s hk hx
  obtain ⟨body, hbody⟩ := exec_host hk
  obtain ⟨y, hy⟩ := nextHandler_isSome hx
  rw [hbody, hostOperation_refused body hy]

/-- Settles O15: none of the three events has a condition. -/
theorem environmentEventsAreAlwaysPossible : Obligations.EnvironmentEventsAreAlwaysPossible := by
  intro i s hk
  cases i with
  | sysReset => exact ⟨_, rfl⟩
  | evTick c => exact ⟨_, exec_evTick c s⟩
  | evSample reading => exact ⟨_, exec_evSample reading s⟩
  | _ => cases hk

/-! ### The step in either mode (60_exceptions.md R182) -/

@[simp] theorem explicit_admits (i : Instr) : TraceMode.explicit.admits i = true := rfl

theorem prompt_admits_iff {i : Instr} : TraceMode.prompt.admits i = true ↔ i.kind ≠ .handlerStep := by
  simp [TraceMode.admits, Instr.wellFormed]

@[simp] theorem handler_kind (x : Source) : x.handler.kind = .handlerStep := by
  cases x <;> rfl

theorem not_prompt_admits_handler (x : Source) : ¬ TraceMode.prompt.admits x.handler = true :=
  fun h => prompt_admits_iff.mp h (handler_kind x)

/-- A listed word that the mode does not admit is refused. -/
theorem step_of_not_admitted {s : State} {i : Instr} {rest : List Byte}
    (h : s.mode = .explicit ∨ s.mode = .prompt ∧ nextHandler s = none) (hd : decode s.trace = .ok (i, rest))
    (ha : ¬ s.mode.admits i = true) : step s = .refused .handlerInPromptTrace := by
  simp only [step, nextOperation_eq_listedOperation h, listedOperation, hd, if_neg ha]

/-- Settles O8: explicit mode admits every operation. -/
theorem explicitStepPerformsTheListedOperation : Obligations.ExplicitStepPerformsTheListedOperation :=
  fun _ i _ hm hd => step_of_decode_ok (.inl hm) hd (hm ▸ explicit_admits i)

/-- Settles O9: an enabled handler goes before the trace, and without one the trace says what comes next, which prompt mode
admits unless it is a handler step. -/
theorem promptStepServesHandlersFirst : Obligations.PromptStepServesHandlersFirst := by
  refine fun s hm => ⟨fun x hx => step_handler hm hx, fun i rest hn hd => ⟨fun hk => ?_, fun hk => ?_⟩⟩
  · exact step_of_decode_ok (.inr ⟨hm, hn⟩) hd (hm ▸ prompt_admits_iff.mpr hk)
  · exact step_of_not_admitted (.inr ⟨hm, hn⟩) hd (hm ▸ fun ha => prompt_admits_iff.mp ha hk)

/-! ### A prompt run and the explicit run of the operations it performed (60_exceptions.md R182) -/

/-- What a prompt step takes off the trace: the word of the operation it performs, if that is one a prompt trace lists. -/
theorem trace_of_nextOperation {s u : State} {i : Instr} (hm : s.mode = .prompt) (h : nextOperation s = .ok (i, u)) :
    s.trace = encodeTrace ([i].filter TraceMode.prompt.admits) ++ u.trace := by
  obtain ⟨x, -, -, rfl, rfl⟩ | ⟨rest, hd, ha, rfl⟩ := nextOperation_ok h
  · rw [List.filter_cons_of_neg (not_prompt_admits_handler x)]
    rfl
  · rw [List.filter_cons_of_pos (hm ▸ ha), eq_encode_of_decode hd]
    simp [encodeTrace]

/-- An operation that completes is an explicit step where its word is listed next. -/
theorem step_under_explicit {i : Instr} {s t : State} (h : exec i s = .next t) (rest : List Byte) :
    step (s.under .explicit (encode i ++ rest)) = .next (t.under .explicit rest) := by
  have hstep : step (s.under .explicit (encode i ++ rest)) = exec i (s.under .explicit rest) :=
    step_of_decode_ok (.inl rfl) (decode_encode i rest) rfl
  rw [hstep, exec_under, h]
  rfl

theorem step_keeps_mode {s t : State} (h : step s = .next t) : t.mode = s.mode := by
  obtain ⟨i, u, hnext, hexec⟩ := step_next h
  obtain ⟨-, hmode⟩ := exec_keeps_trace hexec
  rw [hmode, nextOperation_ok_state hnext, State.withTrace_mode]

/-- A prompt step performs one operation, takes its word off the trace if a prompt trace lists it, and is the explicit step
of that operation listed next, whatever follows it. -/
theorem prompt_step_is_explicit {s t : State} (hm : s.mode = .prompt) (h : step s = .next t) :
    ∃ i, s.trace = encodeTrace ([i].filter TraceMode.prompt.admits) ++ t.trace ∧
      ∀ rest, step (s.under .explicit (encode i ++ rest)) = .next (t.under .explicit rest) := by
  obtain ⟨i, u, hnext, hexec⟩ := step_next h
  obtain ⟨htrace, -⟩ := exec_keeps_trace hexec
  refine ⟨i, htrace ▸ trace_of_nextOperation hm hnext, fun rest => ?_⟩
  have hsu : u.under .explicit (encode i ++ rest) = s.under .explicit (encode i ++ rest) := by
    rw [nextOperation_ok_state hnext]
    rfl
  exact hsu ▸ step_under_explicit hexec rest

theorem encodeTrace_append (is js : List Instr) : encodeTrace (is ++ js) = encodeTrace is ++ encodeTrace js :=
  List.flatMap_append

/-- The words of a run's operations are those of its first operation and those of the rest. -/
theorem encodeTrace_filter_cons (p : Instr → Bool) (i : Instr) (is : List Instr) :
    encodeTrace ((i :: is).filter p) = encodeTrace ([i].filter p) ++ encodeTrace (is.filter p) := by
  rw [← encodeTrace_append, ← List.filter_append, List.singleton_append]

/-- Settles O16, by induction on the number of steps: each prompt step is the explicit step of the operation it performed,
whose word stands before the words of the operations performed after it. -/
theorem promptRunIsAnExplicitRun : Obligations.PromptRunIsAnExplicitRun := by
  intro k
  induction k with
  | zero =>
    rintro s t - hrun
    cases hrun
    exact ⟨[], rfl, rfl, rfl⟩
  | succ k ih =>
    intro s t hm hrun
    obtain ⟨u, hstep, hrest⟩ := runSteps_succ_next hrun
    obtain ⟨i, hword, hexplicit⟩ := prompt_step_is_explicit hm hstep
    obtain ⟨is, hlen, htrace, hrun'⟩ := ih u t ((step_keeps_mode hstep).trans hm) hrest
    refine ⟨i :: is, by rw [List.length_cons, hlen], ?_, ?_⟩
    · rw [encodeTrace_filter_cons, List.append_assoc, ← htrace]
      exact hword
    · rw [encodeTrace_cons, List.append_assoc]
      exact (runSteps_succ k (hexplicit _)).trans hrun'

end Sys2Proof.Machine
end
